-- ==== Sys2Proof/Word.lean ====
section
/-! DEFINITION. The widths of the engine: limbs, field elements, words of the port and of a command, register numbers
(00_scope.md R5, R6, R8). -/

namespace Sys2Proof

/-- A limb, `W` = 64 bits (R5, R8). -/
abbrev Limb := BitVec 64

/-- A 128-bit quantity of two limbs (R8, R10): a field element in either form, an exponent or a domain size. -/
abbrev Elem := BitVec 128

/-- A data word of the register port, `DW` = 64 bits (R6, R40). -/
abbrev PortWord := BitVec 64

/-- A word address of the register port, `AW` = 6 bits (R6, R40). -/
abbrev PortAddr := BitVec 6

/-- A command word, `CW` = 32 bits (R6, R60). -/
abbrev CmdWord := BitVec 32

/-- The number of a field register, `NREG` = 16: all sixteen values are legal (R10, R62). -/
abbrev Reg := Fin 16

end Sys2Proof
end

