-- ==== Sys2Proof/Syntax.lean ====
section
/-! DEFINITION. The ten commands (30_encoding.md R65), destination first (R70). -/

namespace Sys2Proof

/-- A command of the engine. `rd` is the destination, `ra` and `rb` the sources (R62). -/
inductive Instr where
  /-- `derive(p)` and the validation of ω (R90). -/
  | init
  /-- `from_canonical` (R101). -/
  | fromcan (rd ra : Reg)
  /-- `to_canonical` (R103). -/
  | tocan (rd ra : Reg)
  /-- MontgomeryMul (R116). -/
  | mmul (rd ra rb : Reg)
  /-- `add` (R126). -/
  | fadd (rd ra rb : Reg)
  /-- `sub` (R128). -/
  | fsub (rd ra rb : Reg)
  /-- `neg` (R130). -/
  | fneg (rd ra : Reg)
  /-- `pow`, `rb` the exponent (R137). -/
  | fpow (rd ra rb : Reg)
  /-- `inverse` (R140). -/
  | finv (rd ra : Reg)
  /-- `root_for`, `ra` the domain size (R147). -/
  | root (rd ra : Reg)
deriving DecidableEq, Repr

end Sys2Proof
end

