-- ==== Sys2Proof/WellFormed.lean ====
section
/-! DEFINITION. Well-formed command values: the table of R65 and the legality of a latched 64-bit value (R66).

Every term of `Instr` is well formed by its type (`Reg` holds exactly the sixteen legal register numbers, R62), so what can
be ill formed is a value written to CMD. The checks are written from the table's match and mask, not from the decoder. -/

namespace Sys2Proof

/-- One row of the opcode map (R65): a word `w` is this command if and only if `w &&& mask = pat`. -/
structure OpRow where
  mnemonic : String
  pat : CmdWord
  mask : CmdWord
deriving DecidableEq, Repr

/-- The opcode map (R65), in the table's order. -/
def opRows : List OpRow :=
  [ ⟨"INIT",    0x00000001, 0xFFFFFFFF⟩,
    ⟨"FROMCAN", 0x00000010, 0xFFFF00FF⟩,
    ⟨"TOCAN",   0x00000011, 0xFFFF00FF⟩,
    ⟨"MMUL",    0x00000020, 0xFFF000FF⟩,
    ⟨"FADD",    0x00000030, 0xFFF000FF⟩,
    ⟨"FSUB",    0x00000031, 0xFFF000FF⟩,
    ⟨"FNEG",    0x00000032, 0xFFFF00FF⟩,
    ⟨"FPOW",    0x00000040, 0xFFF000FF⟩,
    ⟨"FINV",    0x00000041, 0xFFFF00FF⟩,
    ⟨"ROOT",    0x00000050, 0xFFFF00FF⟩ ]

/-- Does the word match the row under its mask? -/
def OpRow.matchesWord (row : OpRow) (w : CmdWord) : Bool :=
  w &&& row.mask == row.pat

/-- `c[63:32] = 0` (R60, R66 (a)). -/
def upperHalfZero (c : PortWord) : Bool :=
  c.extractLsb' 32 32 == 0

/-- `c[31:0]` matches one row (R66, the equivalent form). -/
def matchesTable (c : PortWord) : Bool :=
  opRows.any fun row => row.matchesWord (c.setWidth 32)

/-- Is the 64-bit value a legal command (R66)? -/
def legalCommand (c : PortWord) : Bool :=
  upperHalfZero c && matchesTable c

end Sys2Proof
end

