-- ==== Sys2Proof/Decode.lean ====
section
/-! DEFINITION. The decoder of a latched 64-bit value (R68), total and rejecting by name, and the encoder (R60, R61, R68). -/

namespace Sys2Proof

/-- Why a latched value is no command: the cases (a) to (e) of R66. -/
inductive Illegal where
  /-- (a) `c[63:32] ≠ 0`. -/
  | upperHalf
  /-- (c) `w[31:20] ≠ 0`. -/
  | highBits
  /-- (b) `op` is none of the ten values. -/
  | reservedOpcode
  /-- (d) a format U command with `rb ≠ 0`. -/
  | rbField
  /-- (e) a format Z command with a register field that is not 0. -/
  | operandFields
deriving DecidableEq, Repr

/-- `op = w[7:0]` (R62). -/
def opField (c : PortWord) : BitVec 8 := c.extractLsb' 0 8

/-- `rd = w[11:8]` (R62). -/
def rdField (c : PortWord) : Reg := (c.extractLsb' 8 4).toFin

/-- `ra = w[15:12]` (R62). -/
def raField (c : PortWord) : Reg := (c.extractLsb' 12 4).toFin

/-- `rb = w[19:16]` (R62). -/
def rbField (c : PortWord) : Reg := (c.extractLsb' 16 4).toFin

/-- Format U requires `rb = 0` (R61, R66 (d)). -/
def decodeU (c : PortWord) (i : Instr) : Except Illegal Instr :=
  if rbField c = 0 then .ok i else .error .rbField

/-- Format Z requires `rb`, `ra` and `rd` to be 0 (R61, R66 (e)). -/
def decodeZ (c : PortWord) (i : Instr) : Except Illegal Instr :=
  if rdField c = 0 ∧ raField c = 0 ∧ rbField c = 0 then .ok i else .error .operandFields

/-- The opcode selects the command and its format (R65, R68). -/
def decodeOp (c : PortWord) : Except Illegal Instr :=
  match opField c with
  | 0x01 => decodeZ c .init
  | 0x10 => decodeU c (.fromcan (rdField c) (raField c))
  | 0x11 => decodeU c (.tocan (rdField c) (raField c))
  | 0x20 => .ok (.mmul (rdField c) (raField c) (rbField c))
  | 0x30 => .ok (.fadd (rdField c) (raField c) (rbField c))
  | 0x31 => .ok (.fsub (rdField c) (raField c) (rbField c))
  | 0x32 => decodeU c (.fneg (rdField c) (raField c))
  | 0x40 => .ok (.fpow (rdField c) (raField c) (rbField c))
  | 0x41 => decodeU c (.finv (rdField c) (raField c))
  | 0x50 => decodeU c (.root (rdField c) (raField c))
  | _    => .error .reservedOpcode

/-- The decoder (R68), a total function on 64-bit values. -/
def decode (c : PortWord) : Except Illegal Instr :=
  if c.extractLsb' 32 32 ≠ 0 then .error .upperHalf
  else if c.extractLsb' 20 12 ≠ 0 then .error .highBits
  else decodeOp c

/-- Format U: `op + rd·2^8 + ra·2^12` (R68). -/
def encodeU (op : Nat) (rd ra : Reg) : CmdWord :=
  BitVec.ofNat 32 (op + rd.val * 2 ^ 8 + ra.val * 2 ^ 12)

/-- Format T: `op + rd·2^8 + ra·2^12 + rb·2^16` (R68). -/
def encodeT (op : Nat) (rd ra rb : Reg) : CmdWord :=
  BitVec.ofNat 32 (op + rd.val * 2 ^ 8 + ra.val * 2 ^ 12 + rb.val * 2 ^ 16)

/-- The encoder (R68): the 32-bit command word. -/
def encode : Instr → CmdWord
  | .init => 0x01
  | .fromcan rd ra => encodeU 0x10 rd ra
  | .tocan rd ra => encodeU 0x11 rd ra
  | .mmul rd ra rb => encodeT 0x20 rd ra rb
  | .fadd rd ra rb => encodeT 0x30 rd ra rb
  | .fsub rd ra rb => encodeT 0x31 rd ra rb
  | .fneg rd ra => encodeU 0x32 rd ra
  | .fpow rd ra rb => encodeT 0x40 rd ra rb
  | .finv rd ra => encodeU 0x41 rd ra
  | .root rd ra => encodeU 0x50 rd ra

/-- The value a host writes to CMD for a command: `zext_64` of its word (R60, R70). -/
def cmdValue (i : Instr) : PortWord := (encode i).setWidth 64

/-- The 64-bit CMD value that carries the low `nbits` bits of `w`, every bit above them 0 (R60). -/
def tableWordValue (nbits w : Nat) : PortWord := BitVec.ofNat 64 (w % 2 ^ nbits)

/-- The command the decoder reads from a word of the opcode table. -/
def decodeTableWord (nbits w : Nat) : Option Instr :=
  match decode (tableWordValue nbits w) with
  | .ok i => some i
  | .error _ => none

end Sys2Proof
end

