-- ==== Sys2Proof/Config.lean ====
section
/-! DEFINITION. What is fixed for one engine (R5, R20), and the one value the spec leaves open (R6, R193). -/

namespace Sys2Proof

/-- The configuration of an engine. The modulus is its only field: the arithmetic is generic in it, as R5 and R21 ask
("provably general"), and INV, R and R2 are derived from it by INIT (log 5). -/
structure Config where
  p : Elem
deriving DecidableEq, Repr

/-- The hardware's constant modulus, p = 2^128 − 2^108 + 1 (R5, R20). -/
def Config.engine : Config := { p := 0xFFFFF000000000000000000000000001 }

/-- `LOGNMAX` (R5): the largest domain size is 2^32. -/
def Config.logNMax : Nat := 32

/-- `EXPW` (R6, R135): the width of an exponent. -/
def Config.expWidth : Nat := 128

/-- DESIGN CHOICE, log 2. The latency of the n-th accepted command, in host steps that go before its `Execute`: finite,
otherwise unconstrained (R6, R54, R193). A free value: it has no body. -/
opaque Config.latency : Nat → Nat

end Sys2Proof
end

