-- ==== Sys2Proof/Machine/Limb.lean ====
section
/-! DEFINITION. LimbOps (40_limbops.md R80 to R86): the datapath primitives on 64-bit limbs. Everything is unsigned; a 1-bit
carry or borrow is a Bool. -/

namespace Sys2Proof.Machine

/-- `x.lo = x[63:0]` (R8, R43). -/
def loLimb (x : Elem) : Limb := x.extractLsb' 0 64

/-- `x.hi = x[127:64]` (R8, R43). -/
def hiLimb (x : Elem) : Limb := x.extractLsb' 64 64

/-- `lo + hi·2^64` (R8, R10). -/
def ofLimbs (lo hi : Limb) : Elem := hi ++ lo

/-- `mul64` (R80): the exact unsigned product as `(lo, hi)`. -/
def mul64 (a b : Limb) : Limb × Limb :=
  (BitVec.ofNat 64 (a.toNat * b.toNat), BitVec.ofNat 64 (a.toNat * b.toNat / 2 ^ 64))

/-- `addc` (R81): addition with carry in and carry out. -/
def addc (a b : Limb) (cin : Bool) : Limb × Bool :=
  let v := a.toNat + b.toNat + cin.toNat
  (BitVec.ofNat 64 v, decide (2 ^ 64 ≤ v))

/-- `subb` (R82): subtraction with borrow in and borrow out. -/
def subb (a b : Limb) (bin : Bool) : Limb × Bool :=
  (BitVec.ofNat 64 (2 ^ 64 + a.toNat - (b.toNat + bin.toNat)), decide (a.toNat < b.toNat + bin.toNat))

/-- `mac` (R83): `t + x·y + c` as `(low limb, carry limb)`. The carry is a full limb. -/
def mac (t x y c : Limb) : Limb × Limb :=
  let (lo, hi) := mul64 x y
  let (s1, c1) := addc t lo false
  let (s2, c2) := addc s1 c false
  (s2, BitVec.ofNat 64 (hi.toNat + c1.toNat + c2.toNat))

/-- `ge_p` (R85): is the 129-bit value `v0 + v1·2^64 + v2·2^128` at least p? -/
def geP (c : Config) (v0 v1 : Limb) (v2 : Bool) : Bool :=
  v2 || decide (hiLimb c.p < v1) || (v1 == hiLimb c.p && decide (loLimb c.p ≤ v0))

/-- `lt_p` (R85): is a 128-bit register value reduced (R9)? -/
def ltP (c : Config) (x : Elem) : Bool := !geP c (loLimb x) (hiLimb x) false

/-- `v − p` on the two low limbs, and the borrow out (R85). -/
def subP (c : Config) (v0 v1 : Limb) : Elem × Bool :=
  let (d0, b0) := subb v0 (loLimb c.p) false
  let (d1, b1) := subb v1 (hiLimb c.p) b0
  (ofLimbs d0 d1, b1)

/-- The one conditional subtraction of p from a 129-bit value (R85, R113, R125). -/
def reduceOnce (c : Config) (v0 v1 : Limb) (v2 : Bool) : Elem :=
  if geP c v0 v1 v2 then (subP c v0 v1).1 else ofLimbs v0 v1

end Sys2Proof.Machine
end

