-- ==== Sys2Proof/Machine/Redc.lean ====
section
/-! DEFINITION. The REDC engine (43_mmul_redc.md R110 to R119): the product, the two reduction rounds, the conditional
subtraction, limb by limb, with the fifth position that 90_conflicts.md C1 keeps. -/

namespace Sys2Proof.Machine

/-- The accumulator `t[0..4]` (R111): four product limbs and the headroom position. -/
structure Accumulator where
  t0 : Limb
  t1 : Limb
  t2 : Limb
  t3 : Limb
  t4 : Limb
deriving DecidableEq, Repr

/-- `T = Σ t[i]·2^(64·i)` (R111). -/
def Accumulator.value (t : Accumulator) : Nat :=
  t.t0.toNat + t.t1.toNat * 2 ^ 64 + t.t2.toNat * 2 ^ 128 + t.t3.toNat * 2 ^ 192 + t.t4.toNat * 2 ^ 256

/-- Add a carry limb into position 2 and ripple it to the top (R84). The carry out of position 4 is 0 in every use
(R115, R119; log 6). -/
def carryInto2 (t : Accumulator) (c : Limb) : Accumulator :=
  let (t2, d2) := addc t.t2 c false
  let (t3, d3) := addc t.t3 0 d2
  let (t4, _) := addc t.t4 0 d3
  { t with t2 := t2, t3 := t3, t4 := t4 }

/-- Add a carry limb into position 3 and ripple it to the top (R84). -/
def carryInto3 (t : Accumulator) (c : Limb) : Accumulator :=
  let (t3, d3) := addc t.t3 c false
  let (t4, _) := addc t.t4 0 d3
  { t with t3 := t3, t4 := t4 }

/-- The row `i = 0`: add `x · (y0 + y1·2^64)` at offset 0, the row's last carry into position 2 (R112, R113). -/
def addRow0 (x y0 y1 : Limb) (t : Accumulator) : Accumulator :=
  let (t0, c0) := mac t.t0 x y0 0
  let (t1, c1) := mac t.t1 x y1 c0
  carryInto2 { t with t0 := t0, t1 := t1 } c1

/-- The row `i = 1`: add `x · (y0 + y1·2^64)` at offset 1, the row's last carry into position 3 (R112, R113). -/
def addRow1 (x y0 y1 : Limb) (t : Accumulator) : Accumulator :=
  let (t1, c1) := mac t.t1 x y0 0
  let (t2, c2) := mac t.t2 x y1 c1
  carryInto3 { t with t1 := t1, t2 := t2 } c2

/-- `mulwide` (R112): the exact 256-bit product, row by row. -/
def mulwide (a b : Elem) : Accumulator :=
  addRow1 (hiLimb a) (loLimb b) (hiLimb b)
    (addRow0 (loLimb a) (loLimb b) (hiLimb b) { t0 := 0, t1 := 0, t2 := 0, t3 := 0, t4 := 0 })

/-- The round multiplier `m = (t[i] · INV) mod 2^64` (R86, R113). -/
def roundMultiplier (inv ti : Limb) : Limb := (mul64 ti inv).1

/-- Reduction round 0 (R113). -/
def redcRound0 (c : Config) (inv : Limb) (t : Accumulator) : Accumulator :=
  addRow0 (roundMultiplier inv t.t0) (loLimb c.p) (hiLimb c.p) t

/-- Reduction round 1 (R113). -/
def redcRound1 (c : Config) (inv : Limb) (t : Accumulator) : Accumulator :=
  addRow1 (roundMultiplier inv t.t1) (loLimb c.p) (hiLimb c.p) t

/-- The two reduction rounds, one per modulus limb (R113). -/
def redcRounds (c : Config) (inv : Limb) (t : Accumulator) : Accumulator :=
  redcRound1 c inv (redcRound0 c inv t)

/-- `redc` (R113): two rounds, then the one conditional subtraction on the 129-bit value `t[2..4]`. -/
def redc (c : Config) (inv : Limb) (t : Accumulator) : Elem :=
  let u := redcRounds c inv t
  reduceOnce c u.t2 u.t3 (u.t4 != 0)

/-- `montmul` (R114). -/
def montmul (c : Config) (inv : Limb) (a b : Elem) : Elem := redc c inv (mulwide a b)

end Sys2Proof.Machine
end

