-- ==== Sys2Proof/Machine/Field.lean ====
section
/-! DEFINITION. The pure functions on field values above the multiplier: the adder (44_addsub.md), the constants
(41_init_constants.md), exponentiation (45_pow_inverse.md) and the roots (46_root.md). -/

namespace Sys2Proof.Machine

/-- `fadd` (R125): the 129-bit sum, then at most one subtraction of p. -/
def fadd (c : Config) (a b : Elem) : Elem :=
  let (s0, c0) := addc (loLimb a) (loLimb b) false
  let (s1, c1) := addc (hiLimb a) (hiLimb b) c0
  reduceOnce c s0 s1 c1

/-- `fsub` (R127): the difference, p added once when a borrow came out; the carry of that addition cancels the borrow. -/
def fsub (c : Config) (a b : Elem) : Elem :=
  let (d0, w0) := subb (loLimb a) (loLimb b) false
  let (d1, w1) := subb (hiLimb a) (hiLimb b) w0
  if w1 then
    let (e0, c0) := addc d0 (loLimb c.p) false
    let (e1, _) := addc d1 (hiLimb c.p) c0
    ofLimbs e0 e1
  else ofLimbs d0 d1

/-- `fneg` (R129). -/
def fneg (c : Config) (a : Elem) : Elem := fsub c 0 a

/-- One Newton pass `x · (2 − p0·x) mod 2^64` (R97). -/
def newtonPass (p0 x : Limb) : Limb := x * (2 - p0 * x)

/-- `n` Newton passes (R97). -/
def newtonPasses (p0 : Limb) : Nat → Limb → Limb
  | 0, x => x
  | n + 1, x => newtonPasses p0 n (newtonPass p0 x)

/-- `neginv64` (R91): `(−p0⁻¹) mod 2^64` for odd `p0`, by the reference iteration of R97 (log 4). -/
def neginv64 (p0 : Limb) : Limb := 0 - newtonPasses p0 6 1

/-- `pow2mod` (R92): `2^k mod p`, by its defining equation (log 4). -/
def pow2mod (c : Config) (k : Nat) : Elem := BitVec.ofNat 128 (2 ^ k % c.p.toNat)

/-- `n` Montgomery squarings. -/
def squarings (c : Config) (inv : Limb) : Nat → Elem → Elem
  | 0, x => x
  | n + 1, x => squarings c inv n (montmul c inv x x)

/-- The loop of R136 over exponent bits `i − 1` down to 0. -/
def fpowLoop (c : Config) (inv : Limb) (base e : Elem) : Nat → Elem → Elem
  | 0, acc => acc
  | i + 1, acc =>
    let sq := montmul c inv acc acc
    fpowLoop c inv base e i (if e.getLsbD i then montmul c inv sq base else sq)

/-- `fpow` (R136): left to right over all 128 exponent bits from `acc = R`. `one` is the constant R. -/
def fpow (c : Config) (inv : Limb) (one base e : Elem) : Elem :=
  fpowLoop c inv base e Config.expWidth one

/-- `is_domain` (R148): one bit set and at most 2^32. All 128 bits are examined. -/
def isDomain (n : Elem) : Bool :=
  n != 0 && n &&& (n - 1) == 0 && decide (n ≤ BitVec.ofNat 128 (2 ^ Config.logNMax))

/-- `root` (R149): `fpow(WM, 2^(32 − k))`. -/
def rootOfUnity (c : Config) (inv : Limb) (one wm : Elem) (k : Nat) : Elem :=
  fpow c inv one wm (BitVec.ofNat 128 (2 ^ (Config.logNMax - k)))

/-- What a successful INIT derives (R94). -/
structure Constants where
  inv : Limb
  r : Elem
  r2 : Elem
  wm : Elem
deriving DecidableEq, Repr

/-- INIT's derivation and validation (R90 to R93), in the order of R90; `none` is its fatal end. -/
def deriveConstants (c : Config) (omega : Elem) : Option Constants :=
  if c.p.getLsbD 0 = false then none
  else
    let inv := neginv64 (loLimb c.p)
    let r := pow2mod c 128
    let r2 := pow2mod c 256
    if ltP c omega = false then none
    else
      let wm := montmul c inv omega r2
      let x := squarings c inv 31 wm
      if x ≠ fneg c r then none
      else if montmul c inv x x ≠ r then none
      else some { inv := inv, r := r, r2 := r2, wm := wm }

end Sys2Proof.Machine
end

