-- ==== Sys2Proof/Machine/State.lean ====
section
/-! DEFINITION. The state of the machine: the engine's registers (10_state.md) and the HOST agent that drives its port. -/

namespace Sys2Proof.Machine

/-- One step kind of the HOST agent (R7, R70). -/
inductive Transaction where
  /-- `RD`: `RegRead(a)` (R45). -/
  | read (a : PortAddr)
  /-- `WR`: `RegWrite(a, v)` (R46). -/
  | write (a : PortAddr) (v : PortWord)
  /-- `RESET` (R185). -/
  | reset
  /-- `WAIT`: repeat `RD STATUS` until bit 0 of the value read is 0 (R70). -/
  | wait
deriving DecidableEq, Repr

/-- The whole state. `inv` to `ecmd` are the engine's (10_state.md, the record; P is `Config.engine.p`, R20); `script` to
`latency` are the MODEL's own: the HOST agent and its interleaving with the ENGINE (logs 1 and 2). -/
structure State where
  /-- INV, −p⁻¹ mod 2^64 once READY (R21). -/
  inv : Limb
  /-- R, 2^128 mod p once READY (R22). -/
  r : Elem
  /-- R2, 2^256 mod p once READY (R23). -/
  r2 : Elem
  /-- OMEGA, the candidate base root in canonical form, written by the host (R24). -/
  omega : Elem
  /-- WM, OMEGA in Montgomery form once READY (R25). -/
  wm : Elem
  /-- F0 to F15, no tag, none hardwired (R10, R11). -/
  f : Vector Elem 16
  /-- CMDR, the last accepted CMD write (R26). -/
  cmdr : PortWord
  /-- BUSY: a command is latched and not yet committed (R14). -/
  busy : Bool
  /-- READY: INIT has committed (R15). -/
  ready : Bool
  /-- FATAL: INIT has failed (R16). -/
  fatal : Bool
  /-- ERR: a recoverable error is pending (R17). -/
  err : Bool
  /-- PVIOL: a host write was dropped (R18). -/
  pviol : Bool
  /-- ECODE, the code of the pending error or fatal failure (R19). -/
  ecode : BitVec 8
  /-- ECMD, the command word of the pending error or fatal failure (R27). -/
  ecmd : PortWord
  /-- The host's transactions still to come (R12, R70; log 1). -/
  script : List Transaction
  /-- What the host's reads returned, oldest first (R199; log 1). -/
  reads : List (PortAddr × PortWord)
  /-- How many CMD writes were accepted: selects the next free latency (log 2). -/
  issued : Nat
  /-- How many host steps still go before `Execute` while BUSY = 1 (R54, R193; log 2). -/
  latency : Nat
deriving DecidableEq, Repr

/-- Faults of the machine: none. Every event of the spec is a next state: a recoverable error (R160), a fatal failure (R161)
and a dropped write (R50) each have a defined effect, and an idle engine waits (R12, R69; log 3). No step raises a fault,
which is safe: nothing is cut short. -/
inductive Fault where
deriving DecidableEq, Repr

/-- Refusals of the machine. -/
inductive Refusal where
  /-- Raised by an arm of `exec` whose instruction has no meaning yet; no arm does. Safe: the run stops. -/
  | notModelled (mnemonic : String)
deriving DecidableEq, Repr

/-- The outcome of one step. -/
abbrev Result := Host.Outcome State Fault Refusal

/-- The machine right after `RESET` (R31, R185): all mutable state of the engine is 0. The host has no transactions left and
has read nothing (logs 1 and 2). -/
def State.reset : State where
  inv := 0
  r := 0
  r2 := 0
  omega := 0
  wm := 0
  f := Vector.replicate 16 0
  cmdr := 0
  busy := false
  ready := false
  fatal := false
  err := false
  pviol := false
  ecode := 0
  ecmd := 0
  script := []
  reads := []
  issued := 0
  latency := 0

end Sys2Proof.Machine
end

