-- ==== Sys2Proof/Machine/Flags.lean ====
section
/-! DEFINITION. The error codes (60_exceptions.md R156) and the STATUS register (10_state.md R13). The engine has no
arithmetic condition codes. -/

namespace Sys2Proof.Machine

/-- The recoverable errors (R156). The fatal failure E_CONST has its own operation, `raiseFatal`. -/
inductive ErrorCode where
  /-- E_ILLEGAL (R162). -/
  | illegal
  /-- E_NOTREADY (R163). -/
  | notReady
  /-- E_LOCKED (R166). -/
  | locked
  /-- E_RANGE (R165). -/
  | range
  /-- E_CONTRACT (R164). -/
  | contract
  /-- E_DIVZERO (R167). -/
  | divZero
  /-- E_DOMAIN (R168). -/
  | domain
deriving DecidableEq, Repr

/-- The value of ECODE for an error (R156). -/
def errorCodeValue : ErrorCode → BitVec 8
  | .illegal => 1
  | .notReady => 2
  | .locked => 3
  | .range => 4
  | .contract => 5
  | .divZero => 6
  | .domain => 7

/-- E_CONST, the code of the fatal failure (R156, R161). -/
def fatalCodeValue : BitVec 8 := 8

/-- The STATUS word (R13, R45): `BUSY + 2·READY + 4·FATAL + 8·ERR + 16·PVIOL + 256·ECODE`. -/
def statusWord (s : State) : PortWord :=
  BitVec.ofNat 64 (s.busy.toNat + 2 * s.ready.toNat + 4 * s.fatal.toNat + 8 * s.err.toNat + 16 * s.pviol.toNat
    + 256 * s.ecode.toNat)

end Sys2Proof.Machine
end

