-- ==== Sys2Proof/Machine/Operands.lean ====
section
/-! DEFINITION. The operand forms (30_encoding.md R63, R64): a field register read as a Montgomery form, as a canonical value
or as a plain integer, each with its own check. -/

namespace Sys2Proof.Machine

/-- `F[i]` (R8). -/
def readReg (s : State) (i : Reg) : Elem := s.f.get i

/-- `F[i] <- v` (R8). -/
def writeReg (s : State) (i : Reg) (v : Elem) : State := { s with f := s.f.set i v }

/-- The form "Mont" of R64, and of the sources of FADD, FSUB and FNEG: reduced, or E_CONTRACT (R164). -/
def readMont (s : State) (i : Reg) : Except ErrorCode Elem :=
  if ltP Config.engine (readReg s i) then .ok (readReg s i) else .error .contract

/-- The form "canon" of R64: reduced, or E_RANGE (R165). -/
def readCanon (s : State) (i : Reg) : Except ErrorCode Elem :=
  if ltP Config.engine (readReg s i) then .ok (readReg s i) else .error .range

/-- The form "int" of R64: any 128 bits, no check. -/
def readInt (s : State) (i : Reg) : Elem := readReg s i

end Sys2Proof.Machine
end

