-- ==== Sys2Proof/Machine/Ops.lean ====
section
/-! DEFINITION. The shared operations: commit of a command, taking an error ("trap entry", R160, R161, R172), its
acknowledge ("trap return", R173), and reset (R185). -/

namespace Sys2Proof.Machine

/-- Trap entry of a recoverable error (R160): `ERR <- 1; ECODE <- code; ECMD <- CMDR; BUSY <- 0`, nothing else. -/
def raise (e : ErrorCode) (s : State) : State :=
  { s with err := true, ecode := errorCodeValue e, ecmd := s.cmdr, busy := false }

/-- The fatal failure of INIT (R95, R161): `FATAL <- 1; ECODE <- 8; ECMD <- CMDR; BUSY <- 0`, nothing else. -/
def raiseFatal (s : State) : State :=
  { s with fatal := true, ecode := fatalCodeValue, ecmd := s.cmdr, busy := false }

/-- Trap return (R49, R173): `ERR <- 0`, and ECODE and ECMD with it unless FATAL holds them. -/
def acknowledge (s : State) : State :=
  if s.fatal then { s with err := false } else { s with err := false, ecode := 0, ecmd := 0 }

/-- Normal completion of a command with a destination (R159): both limbs at once, and BUSY cleared. -/
def commit (rd : Reg) (v : Elem) (s : State) : State := { writeReg s rd v with busy := false }

/-- Commit of a successful INIT (R94). -/
def commitConstants (k : Constants) (s : State) : State :=
  { s with inv := k.inv, r := k.r, r2 := k.r2, wm := k.wm, ready := true, busy := false }

/-- The end of a command's pseudocode (R158): `Ok(rd, value)` or `Error(code)`. -/
def finish (rd : Reg) (result : Except ErrorCode Elem) (s : State) : State :=
  match result with
  | .ok v => commit rd v s
  | .error e => raise e s

/-- The frame of every command but INIT (R158, R163): E_NOTREADY before any operand is read, then the command's own
pseudocode, evaluated on the state as it is when `Execute` begins. -/
def runCommand (rd : Reg) (body : State → Except ErrorCode Elem) (s : State) : Result :=
  .next (finish rd (if s.ready then body s else .error .notReady) s)

/-- `RESET` (R31, R185, R186): every piece of the engine's mutable state to 0. The HOST agent's own fields stay
(logs 1 and 2). -/
def resetEngine (s : State) : State :=
  { State.reset with script := s.script, reads := s.reads, issued := s.issued, latency := s.latency }

end Sys2Proof.Machine
end

