-- ==== Sys2Proof/Machine/AddSub.lean ====
section
/-! DEFINITION. FADD, FSUB and FNEG (44_addsub.md R125 to R131). -/

namespace Sys2Proof.Machine

/-- FADD (R126). -/
def execFadd (rd ra rb : Reg) (s : State) : Result :=
  runCommand rd (fun s => do
    let a ← readMont s ra
    let b ← readMont s rb
    return fadd Config.engine a b) s

/-- FSUB (R128): `ra` the minuend, `rb` the subtrahend. -/
def execFsub (rd ra rb : Reg) (s : State) : Result :=
  runCommand rd (fun s => do
    let a ← readMont s ra
    let b ← readMont s rb
    return fsub Config.engine a b) s

/-- FNEG (R130). -/
def execFneg (rd ra : Reg) (s : State) : Result :=
  runCommand rd (fun s => do
    let a ← readMont s ra
    return fneg Config.engine a) s

end Sys2Proof.Machine
end

