-- ==== Sys2Proof/Machine/Conversion.lean ====
section
/-! DEFINITION. FROMCAN and TOCAN (42_conversion.md R100 to R104). -/

namespace Sys2Proof.Machine

/-- FROMCAN (R101): `montmul(x, R2)` of a canonical x. -/
def execFromcan (rd ra : Reg) (s : State) : Result :=
  runCommand rd (fun s => do
    let x ← readCanon s ra
    return montmul Config.engine s.inv x s.r2) s

/-- The 256-bit REDC input of a 128-bit value, upper limbs zero (R103). -/
def widen (e : Elem) : Accumulator := { t0 := loLimb e, t1 := hiLimb e, t2 := 0, t3 := 0, t4 := 0 }

/-- TOCAN (R103): `redc` of the value itself. -/
def execTocan (rd ra : Reg) (s : State) : Result :=
  runCommand rd (fun s => do
    let e ← readMont s ra
    return redc Config.engine s.inv (widen e)) s

end Sys2Proof.Machine
end

