-- ==== Sys2Proof/Machine/Init.lean ====
section
/-! DEFINITION. INIT (41_init_constants.md R90 to R98). -/

namespace Sys2Proof.Machine

/-- INIT (R90): E_LOCKED once READY (R96); else derive and validate, and commit all constants together (R94) or end
fatally (R95). It is exempt from E_NOTREADY (R158). -/
def execInit (s : State) : Result :=
  .next <|
    if s.ready then raise .locked s
    else
      match deriveConstants Config.engine s.omega with
      | some k => commitConstants k s
      | none => raiseFatal s

end Sys2Proof.Machine
end

