-- ==== Sys2Proof/Machine/Mul.lean ====
section
/-! DEFINITION. MMUL (43_mmul_redc.md R116). -/

namespace Sys2Proof.Machine

/-- MMUL (R116): `montmul(a, b)` of two reduced values. -/
def execMmul (rd ra rb : Reg) (s : State) : Result :=
  runCommand rd (fun s => do
    let a ← readMont s ra
    let b ← readMont s rb
    return montmul Config.engine s.inv a b) s

end Sys2Proof.Machine
end

