-- ==== Sys2Proof/Machine/Pow.lean ====
section
/-! DEFINITION. FPOW and FINV (45_pow_inverse.md R135 to R141). -/

namespace Sys2Proof.Machine

/-- FPOW (R137): `ra` the base, checked; `rb` the exponent, a plain integer that raises nothing. -/
def execFpow (rd ra rb : Reg) (s : State) : Result :=
  runCommand rd (fun s => do
    let base ← readMont s ra
    return fpow Config.engine s.inv s.r base (readInt s rb)) s

/-- FINV (R140): the range check, then the zero check (E_DIVZERO, R167), then `fpow(a, p − 2)`. -/
def execFinv (rd ra : Reg) (s : State) : Result :=
  runCommand rd (fun s => do
    let a ← readMont s ra
    if a = 0 then throw ErrorCode.divZero
    return fpow Config.engine s.inv s.r a (Config.engine.p - 2)) s

end Sys2Proof.Machine
end

