-- ==== Sys2Proof/Machine/Root.lean ====
section
/-! DEFINITION. ROOT (46_root.md R145 to R152). -/

namespace Sys2Proof.Machine

/-- ROOT (R147): `ra` the domain size n, a plain integer; E_DOMAIN unless it is one of the 33 sizes (R148, R168); the
result is `root(log2 n)` (R149). -/
def execRoot (rd ra : Reg) (s : State) : Result :=
  runCommand rd (fun s => do
    let n := readInt s ra
    if isDomain n = false then throw ErrorCode.domain
    return rootOfUnity Config.engine s.inv s.r s.wm (Nat.log2 n.toNat)) s

end Sys2Proof.Machine
end

