-- ==== Sys2Proof/Machine/Dispatch.lean ====
section
/-! DEFINITION. The meaning of each command: the outcome and commit of `Execute` for a decoded word (R158). -/

namespace Sys2Proof.Machine

def exec (i : Instr) (s : State) : Host.Outcome State Fault Refusal :=
  match i with
  | .init => Sys2Proof.Machine.execInit s
  | .fromcan rd ra => Sys2Proof.Machine.execFromcan rd ra s
  | .tocan rd ra => Sys2Proof.Machine.execTocan rd ra s
  | .mmul rd ra rb => Sys2Proof.Machine.execMmul rd ra rb s
  | .fadd rd ra rb => Sys2Proof.Machine.execFadd rd ra rb s
  | .fsub rd ra rb => Sys2Proof.Machine.execFsub rd ra rb s
  | .fneg rd ra => Sys2Proof.Machine.execFneg rd ra s
  | .fpow rd ra rb => Sys2Proof.Machine.execFpow rd ra rb s
  | .finv rd ra => Sys2Proof.Machine.execFinv rd ra s
  | .root rd ra => Sys2Proof.Machine.execRoot rd ra s

end Sys2Proof.Machine
end

