-- ==== Sys2Proof/Machine/Port.lean ====
section
/-! DEFINITION. The register port (20_memory.md R40 to R53): the register map, `RegRead` and `RegWrite`. -/

namespace Sys2Proof.Machine

/-- The words of the register space (R41). -/
inductive PortReg where
  | cmd | status | ecmd | pLo | pHi | inv | rLo | rHi | r2Lo | r2Hi | omegaLo | omegaHi | wmLo | wmHi
  /-- Low limb of field register i, at 0x20 + 2·i. -/
  | fLo (i : Reg)
  /-- High limb of field register i, at 0x21 + 2·i. -/
  | fHi (i : Reg)
  /-- 0x03, 0x07 and 0x10 to 0x1F. -/
  | reserved
deriving DecidableEq, Repr

/-- The index of the field register at an address 0x20 to 0x3F (R41). -/
def fieldIndex (a : PortAddr) : Reg := (a.extractLsb' 1 4).toFin

/-- The register map (R41). -/
def portReg (a : PortAddr) : PortReg :=
  if a.getLsbD 5 then (if a.getLsbD 0 then .fHi (fieldIndex a) else .fLo (fieldIndex a))
  else
    match a with
    | 0x00 => .cmd
    | 0x01 => .status
    | 0x02 => .ecmd
    | 0x04 => .pLo
    | 0x05 => .pHi
    | 0x06 => .inv
    | 0x08 => .rLo
    | 0x09 => .rHi
    | 0x0A => .r2Lo
    | 0x0B => .r2Hi
    | 0x0C => .omegaLo
    | 0x0D => .omegaHi
    | 0x0E => .wmLo
    | 0x0F => .wmHi
    | _ => .reserved

/-- The address of a named register (R41, R70 `addr(name)`); a reserved word has no name, and 0x03 stands for them. -/
def portAddr : PortReg → PortAddr
  | .cmd => 0x00
  | .status => 0x01
  | .ecmd => 0x02
  | .pLo => 0x04
  | .pHi => 0x05
  | .inv => 0x06
  | .rLo => 0x08
  | .rHi => 0x09
  | .r2Lo => 0x0A
  | .r2Hi => 0x0B
  | .omegaLo => 0x0C
  | .omegaHi => 0x0D
  | .wmLo => 0x0E
  | .wmHi => 0x0F
  | .fLo i => BitVec.ofNat 6 (0x20 + 2 * i.val)
  | .fHi i => BitVec.ofNat 6 (0x21 + 2 * i.val)
  | .reserved => 0x03

/-- What a read of each word returns (R45). CMD and reserved words read 0 (R26, R41). -/
def readWord (s : State) : PortReg → PortWord
  | .cmd => 0
  | .status => statusWord s
  | .ecmd => s.ecmd
  | .pLo => loLimb Config.engine.p
  | .pHi => hiLimb Config.engine.p
  | .inv => s.inv
  | .rLo => loLimb s.r
  | .rHi => hiLimb s.r
  | .r2Lo => loLimb s.r2
  | .r2Hi => hiLimb s.r2
  | .omegaLo => loLimb s.omega
  | .omegaHi => hiLimb s.omega
  | .wmLo => loLimb s.wm
  | .wmHi => hiLimb s.wm
  | .fLo i => loLimb (readReg s i)
  | .fHi i => hiLimb (readReg s i)
  | .reserved => 0

/-- `RegRead(a)` (R45): enabled in every state, and it changes nothing (it returns a word only). -/
def regRead (a : PortAddr) (s : State) : PortWord := readWord s (portReg a)

/-- The low limb replaced: `{x[127:64], v}` (R47). -/
def setLo (x : Elem) (v : Limb) : Elem := ofLimbs v (hiLimb x)

/-- The high limb replaced: `{v, x[63:0]}` (R47). -/
def setHi (x : Elem) (v : Limb) : Elem := ofLimbs (loLimb x) v

/-- The write condition of each word (R41, R46 to R50). -/
def writeAccepted (s : State) : PortReg → Bool
  | .cmd => !s.busy && !s.err && !s.fatal
  | .status => true
  | .omegaLo => !s.busy && !s.ready && !s.fatal
  | .omegaHi => !s.busy && !s.ready && !s.fatal
  | .fLo _ => !s.busy
  | .fHi _ => !s.busy
  | .ecmd => false
  | .pLo => false
  | .pHi => false
  | .inv => false
  | .rLo => false
  | .rHi => false
  | .r2Lo => false
  | .r2Hi => false
  | .wmLo => false
  | .wmHi => false
  | .reserved => false

/-- A write to CMD that is accepted (R48): latched, not decoded. -/
def latchCommand (v : PortWord) (s : State) : State := { s with cmdr := v, busy := true }

/-- A dropped write (R50): `PVIOL <- 1` and nothing else. -/
def dropWrite (s : State) : State := { s with pviol := true }

/-- A write to STATUS (R49): bit 3 acknowledges the error, bit 4 clears PVIOL, every other bit is ignored. -/
def writeStatus (v : PortWord) (s : State) : State :=
  let s1 := if v.getLsbD 3 then acknowledge s else s
  if v.getLsbD 4 then { s1 with pviol := false } else s1

/-- The effect of an accepted write (R47, R48, R49). The read-only and reserved words accept none. -/
def applyWrite (v : PortWord) (s : State) : PortReg → State
  | .cmd => latchCommand v s
  | .status => writeStatus v s
  | .omegaLo => { s with omega := setLo s.omega v }
  | .omegaHi => { s with omega := setHi s.omega v }
  | .fLo i => writeReg s i (setLo (readReg s i) v)
  | .fHi i => writeReg s i (setHi (readReg s i) v)
  | .ecmd => s
  | .pLo => s
  | .pHi => s
  | .inv => s
  | .rLo => s
  | .rHi => s
  | .r2Lo => s
  | .r2Hi => s
  | .wmLo => s
  | .wmHi => s
  | .reserved => s

/-- `RegWrite(a, v)` (R46): accepted or dropped, decided by the address and the current flags. -/
def regWrite (a : PortAddr) (v : PortWord) (s : State) : State :=
  if writeAccepted s (portReg a) then applyWrite v s (portReg a) else dropWrite s

end Sys2Proof.Machine
end

