-- ==== Sys2Proof/Machine/HostAgent.lean ====
section
/-! DEFINITION. The HOST agent (R7, R54, R70, R193): one transaction of its script is one step. -/

namespace Sys2Proof.Machine

/-- Choose how many host steps go before the `Execute` of a command just latched: the next free latency (log 2). -/
def chooseLatency (s : State) : State :=
  { s with latency := Config.latency s.issued, issued := s.issued + 1 }

/-- `RD` (R45): the only effect is that the host learns the word (R199). -/
def hostRead (a : PortAddr) (s : State) : State := { s with reads := s.reads ++ [(a, regRead a s)] }

/-- `WR` (R46): the port's effect, and a free latency where it latched a command. -/
def hostWrite (a : PortAddr) (v : PortWord) (s : State) : State :=
  let t := regWrite a v s
  if t.busy && !s.busy then chooseLatency t else t

/-- The transaction at the head of the script has been taken: one host step less before `Execute`. -/
def advanceScript (rest : List Transaction) (s : State) : State :=
  { s with script := rest, latency := s.latency - 1 }

/-- One step of the HOST. `WAIT` polls STATUS once and is done when the word read has BUSY = 0 (R70; log 7). A host with no
transaction left does nothing (log 3). -/
def hostTurn (s : State) : State :=
  match s.script with
  | [] => s
  | .read a :: rest => hostRead a (advanceScript rest s)
  | .write a v :: rest => hostWrite a v (advanceScript rest s)
  | .reset :: rest => resetEngine (advanceScript rest s)
  | .wait :: rest => hostRead 0x01 (advanceScript (if s.busy then .wait :: rest else rest) s)

end Sys2Proof.Machine
end

