-- ==== Sys2Proof/Machine/Execute.lean ====
section
/-! DEFINITION. The ENGINE's one step, `Execute` (60_exceptions.md R158), and whose turn it is (R14, R54, R193). -/

namespace Sys2Proof.Machine

/-- `Execute` (R158): decode the latched word and carry the command out; an illegal word ends with E_ILLEGAL (R162). -/
def execute (s : State) : Result :=
  match decode s.cmdr with
  | .ok i => exec i s
  | .error _ => .next (raise .illegal s)

/-- Is it the ENGINE's turn? `Execute` is enabled exactly when BUSY = 1 (R14); it is taken when the free latency has run out,
or when the host has nothing left to do (log 2). -/
def engineTurn (s : State) : Bool := s.busy && (s.latency == 0 || s.script.isEmpty)

/-- One step of the machine: the ENGINE's or the HOST's. -/
def machineStep (s : State) : Result := if engineTurn s then execute s else .next (hostTurn s)

/-- A command value latched as an accepted CMD write latches it (R48), with latency 0, so that `Execute` is the next step
(log 1). -/
def latchForNextStep (c : PortWord) (s : State) : State := { latchCommand c s with latency := 0 }

end Sys2Proof.Machine
end

