-- ==== Sys2Proof/Machine/Step.lean ====
section
/-! DEFINITION. The step of the machine (R54, R158). -/

namespace Sys2Proof.Machine

/-- One indivisible step of the total order of R54. It always answers a next state. -/
def step (s : State) : Host.Outcome State Fault Refusal := machineStep s

/-- The state whose very next step runs the command whose word is `w`: the word stands latched in CMDR, as after an accepted
CMD write (R48; log 1). -/
def State.withFetchWord (s : State) (nbits w : Nat) : State := latchForNextStep (tableWordValue nbits w) s

end Sys2Proof.Machine
end

