-- ==== Sys2Proof/Machine/HostProgram.lean ====
section
/-! DEFINITION. Host programs (30_encoding.md R70): lines, pseudo-operations and their expansion, and the text of a command. -/

namespace Sys2Proof.Machine

/-- One line of a host program (R70). -/
inductive Line where
  | command (i : Instr)
  | wr (name : PortReg) (v : PortWord)
  | rd (name : PortReg)
  | reset
  | wait
  | ldf (d : Reg) (v : Elem)
  | rdf (d : Reg)
  | ldomega (v : Elem)
  | clrerr
  | clrpv
deriving DecidableEq, Repr

/-- What a line stands for (R70). -/
def expandLine : Line → List Transaction
  | .command i => [.write 0x00 (cmdValue i)]
  | .wr name v => [.write (portAddr name) v]
  | .rd name => [.read (portAddr name)]
  | .reset => [.reset]
  | .wait => [.wait]
  | .ldf d v => [.write (portAddr (.fLo d)) (loLimb v), .write (portAddr (.fHi d)) (hiLimb v)]
  | .rdf d => [.read (portAddr (.fLo d)), .read (portAddr (.fHi d))]
  | .ldomega v => [.write (portAddr .omegaLo) (loLimb v), .write (portAddr .omegaHi) (hiLimb v)]
  | .clrerr => [.write 0x01 0x8]
  | .clrpv => [.write 0x01 0x10]

/-- The transactions of a host program. -/
def expandProgram (lines : List Line) : List Transaction := lines.flatMap expandLine

/-- Give the HOST a program, after what it still has to do: the load from outside the machine (log 1). -/
def loadProgram (lines : List Line) (s : State) : State :=
  { s with script := s.script ++ expandProgram lines }

/-- `F0` to `F15` (R70). -/
def regName (i : Reg) : String := "F" ++ Nat.repr i.val

/-- The command line of a command (R70): mnemonic, then operands, destination first. -/
def commandLine : Instr → String
  | .init => "INIT"
  | .fromcan rd ra => "FROMCAN " ++ regName rd ++ ", " ++ regName ra
  | .tocan rd ra => "TOCAN " ++ regName rd ++ ", " ++ regName ra
  | .mmul rd ra rb => "MMUL " ++ regName rd ++ ", " ++ regName ra ++ ", " ++ regName rb
  | .fadd rd ra rb => "FADD " ++ regName rd ++ ", " ++ regName ra ++ ", " ++ regName rb
  | .fsub rd ra rb => "FSUB " ++ regName rd ++ ", " ++ regName ra ++ ", " ++ regName rb
  | .fneg rd ra => "FNEG " ++ regName rd ++ ", " ++ regName ra
  | .fpow rd ra rb => "FPOW " ++ regName rd ++ ", " ++ regName ra ++ ", " ++ regName rb
  | .finv rd ra => "FINV " ++ regName rd ++ ", " ++ regName ra
  | .root rd ra => "ROOT " ++ regName rd ++ ", " ++ regName ra

end Sys2Proof.Machine
end

