-- ==== Sys2Proof/Safety.lean ====
section
/-! DEFINITION. The terms that claims about the machine use: the field as numbers (R5, R8), the effects of an error written
out (R160, R161), the phases and invariants (R175, R176), a good end (R199). Numbers here are Nat and written from the spec's
formulas, not from the datapath. -/

namespace Sys2Proof.Machine

/-- p = 2^128 − 2^108 + 1 as a number (R5). -/
def primeP : Nat := 2 ^ 128 - 2 ^ 108 + 1

/-- R⁻¹ mod p, the inverse of 2^128 modulo p (95_test_vectors.md, the values used throughout; R117). -/
def rInv : Nat := 0xFFFFE000010000000000000000000000

/-- Reduced: strictly less than p (R9). -/
abbrev Reduced (x : Elem) : Prop := x.toNat < primeP

/-- `can(e) = (e · R⁻¹) mod p` (R8). -/
def can (e : Elem) : Nat := e.toNat * rInv % primeP

/-- The Montgomery form `(x · R) mod p` of a number (R8, R100). -/
def mont (x : Nat) : Elem := BitVec.ofNat 128 (x * 2 ^ 128 % primeP)

/-- R = 2^128 mod p, the Montgomery form of 1 (R5, R22). -/
def montOne : Elem := BitVec.ofNat 128 (2 ^ 128 % primeP)

/-- R2 = 2^256 mod p (R5, R23). -/
def montTwo : Elem := BitVec.ofNat 128 (2 ^ 256 % primeP)

/-- INV for this p (R21). -/
def invWord : Limb := 0xFFFFFFFFFFFFFFFF

/-- ω is reduced, ω^(2^31) = p − 1 and ω^(2^32) = 1 (R93): a primitive 2^32-th root of unity. -/
def IsBaseRoot (w : Elem) : Prop :=
  Reduced w ∧ w.toNat ^ 2 ^ 31 % primeP = primeP - 1 ∧ w.toNat ^ 2 ^ 32 % primeP = 1

/-- The state after a recoverable error with the given code (R160). -/
def afterError (s : State) (code : BitVec 8) : State :=
  { s with err := true, ecode := code, ecmd := s.cmdr, busy := false }

/-- The state after the fatal failure (R161). -/
def afterFatal (s : State) : State :=
  { s with fatal := true, ecode := 8, ecmd := s.cmdr, busy := false }

/-- The state after a command that ends normally with `F[rd] <- v` (R159). -/
def afterWrite (s : State) (rd : Reg) (v : Elem) : State :=
  { s with f := s.f.set rd v, busy := false }

/-- The three phases (R175). -/
inductive Phase where
  | uninit
  | ready
  | fatal
deriving DecidableEq, Repr

/-- The phase of a state, from READY and FATAL (R175). -/
def phase (s : State) : Phase := if s.fatal then .fatal else if s.ready then .ready else .uninit

/-- The next step is the HOST's `RESET` (R185). -/
def ResetIsNext (s : State) : Prop := engineTurn s = false ∧ ∃ rest, s.script = .reset :: rest

/-- The invariants (a) to (d) of R176. -/
structure FlagsConsistent (s : State) : Prop where
  notReadyAndFatal : ¬(s.ready = true ∧ s.fatal = true)
  busyMeansNoError : s.busy = true → s.err = false ∧ s.fatal = false
  notErrAndFatal : ¬(s.err = true ∧ s.fatal = true)
  codeZero : s.ecode = 0 ↔ s.err = false ∧ s.fatal = false
  codeEight : s.ecode = 8 ↔ s.fatal = true
  codeError : 1 ≤ s.ecode.toNat ∧ s.ecode.toNat ≤ 7 ↔ s.err = true

/-- The invariants (e) and (f) of R176. -/
structure ConstantsDerived (s : State) : Prop where
  beforeInit : s.ready = false → s.inv = 0 ∧ s.r = 0 ∧ s.r2 = 0 ∧ s.wm = 0
  afterInit : s.ready = true →
    s.inv = invWord ∧ s.r = montOne ∧ s.r2 = montTwo ∧ s.wm = mont s.omega.toNat ∧ IsBaseRoot s.omega

/-- The invariants of R176 together. -/
structure EngineInvariant (s : State) : Prop where
  flags : FlagsConsistent s
  constants : ConstantsDerived s

/-- A finished run (R199): the host has performed its last transaction and BUSY = 0. -/
abbrev Finished (s : State) : Prop := s.script = [] ∧ s.busy = false

/-- Does the transaction issue a command other than INIT? -/
def transactionComputes : Transaction → Bool
  | .write a v => a == 0x00 && (match decode v with | .ok i => i != .init | .error _ => false)
  | .read _ => false
  | .reset => false
  | .wait => false

/-- A program is taken to mean to compute (R199) when it issues a command other than INIT (log 11). -/
def programComputes (program : List Transaction) : Bool := program.any transactionComputes

/-- A good end of the run of a program (R199): finished, ERR = 0, FATAL = 0, and READY = 1 if the program meant to compute.
Whether it did is the claim's to say: `programComputes program` reads it from the program's text (log 11). -/
abbrev GoodEnd (meantToCompute : Bool) (s : State) : Prop :=
  Finished s ∧ s.err = false ∧ s.fatal = false ∧ (meantToCompute = true → s.ready = true)

/-- No host write was lost (R199): PVIOL = 0. -/
abbrev NoWriteLost (s : State) : Prop := s.pviol = false

end Sys2Proof.Machine
end

