-- ==== Sys2Proof/Certificates/Slice0/Obligations.lean ====
section
/-! DEFINITION. The statements for the provers. Values are numbers written from the spec's formulas (`primeP`, `mont`, `can`,
`rInv` of Sys2Proof/Safety.lean); next states are written out whole, so that each equation is also the command's frame. -/

open Sys2Proof Sys2Proof.Machine

/-! ### Encoding -/

/-- 95_test_vectors.md section 2.8: the legal words, written out from R65. -/
def Obligations.SpecWordsDecode : Prop :=
  decode 0x00000001 = .ok .init ∧ decode 0x00001110 = .ok (.fromcan 1 1) ∧ decode 0x00000110 = .ok (.fromcan 1 0) ∧
  decode 0x00003411 = .ok (.tocan 4 3) ∧ decode 0x00021320 = .ok (.mmul 3 1 2) ∧
  decode 0x000FFF20 = .ok (.mmul 15 15 15) ∧ decode 0x00021330 = .ok (.fadd 3 1 2) ∧
  decode 0x00021331 = .ok (.fsub 3 1 2) ∧ decode 0x00001232 = .ok (.fneg 2 1) ∧
  decode 0x00021340 = .ok (.fpow 3 1 2) ∧ decode 0x00001241 = .ok (.finv 2 1) ∧
  decode 0x00000241 = .ok (.finv 2 0) ∧ decode 0x00000150 = .ok (.root 1 0) ∧ decode 0x00007950 = .ok (.root 9 7)

/-- R68: `decode(encode(k)) = k` for every command. -/
def Obligations.DecodeOfEncodedCommand : Prop :=
  ∀ i : Instr, decode (cmdValue i) = .ok i

/-- R68: `encode(decode(c)) = c` for every legal value. -/
def Obligations.EncodeOfDecodedValue : Prop :=
  ∀ (c : PortWord) (i : Instr), decode c = .ok i → cmdValue i = c

/-- R66: a latched value is illegal exactly in the cases (a) to (e), equivalently unless its upper half is zero and its low word
matches a row of the opcode map; an illegal command ends with E_ILLEGAL and reads and writes no register. -/
def Obligations.IllegalWordsExactly : Prop :=
  ∀ c : PortWord,
    ((∃ e, decode c = .error e) ↔
      c.toNat / 2 ^ 32 ≠ 0 ∨
      c.toNat % 2 ^ 8 ∉ [0x01, 0x10, 0x11, 0x20, 0x30, 0x31, 0x32, 0x40, 0x41, 0x50] ∨
      c.toNat / 2 ^ 20 % 2 ^ 12 ≠ 0 ∨
      (c.toNat % 2 ^ 8 ∈ [0x10, 0x11, 0x32, 0x41, 0x50] ∧ c.toNat / 2 ^ 16 % 2 ^ 4 ≠ 0) ∨
      (c.toNat % 2 ^ 8 = 0x01 ∧
        (c.toNat / 2 ^ 16 % 2 ^ 4 ≠ 0 ∨ c.toNat / 2 ^ 12 % 2 ^ 4 ≠ 0 ∨ c.toNat / 2 ^ 8 % 2 ^ 4 ≠ 0))) ∧
    ((∃ i, decode c = .ok i) ↔
      c.toNat / 2 ^ 32 = 0 ∧ ∃ row ∈ opRows, c.setWidth 32 &&& row.mask = row.pat) ∧
    (∀ s : State, s.cmdr = c → (∃ e, decode c = .error e) → execute s = .next (afterError s 1))

/-! ### The step -/

/-- R158: when a command is latched and it is the ENGINE's turn, the step is the command's meaning. The turn's condition on
`latency` and `script` is the model's interleaving of R54 (log 2). -/
def Obligations.StepRunsLatchedCommand : Prop :=
  ∀ (s : State) (i : Instr), s.busy = true → (s.latency = 0 ∨ s.script = []) → decode s.cmdr = .ok i →
    step s = exec i s

/-- The model's own `withFetchWord` (log 1): the very next step runs the word's command. -/
def Obligations.FetchWordRunsNext : Prop :=
  ∀ (s : State) (w : Nat) (i : Instr), decodeTableWord 32 w = some i →
    s.withFetchWord 32 w = { s with cmdr := BitVec.ofNat 64 (w % 2 ^ 32), busy := true, latency := 0 } ∧
    step (s.withFetchWord 32 w) = exec i (s.withFetchWord 32 w)

/-- R158, R160, R162: an illegal latched word ends with E_ILLEGAL, READY or not. The turn's condition on `latency` and `script` is
the model's interleaving of R54 (log 2). -/
def Obligations.IllegalWordTakesError : Prop :=
  ∀ (s : State) (e : Illegal), s.busy = true → (s.latency = 0 ∨ s.script = []) → decode s.cmdr = .error e →
    step s = .next (afterError s 1)

/-- R158, R28: every command commits in one step, clears BUSY, and leaves OMEGA, CMDR, PVIOL and the host alone. -/
def Obligations.EveryCommandCommits : Prop :=
  ∀ (i : Instr) (s : State), ∃ t, exec i s = .next t ∧ t.busy = false ∧ t.omega = s.omega ∧ t.cmdr = s.cmdr ∧
    t.pviol = s.pviol ∧ t.script = s.script ∧ t.reads = s.reads ∧ t.issued = s.issued ∧ t.latency = s.latency

/-- R160: a command that ends with a recoverable error changes exactly ERR, ECODE, ECMD and BUSY, and no CMD write is then
accepted. -/
def Obligations.ErrorsArePrecise : Prop :=
  ∀ (i : Instr) (s t : State), s.err = false → exec i s = .next t → t.err = true →
    (∃ code : BitVec 8, 1 ≤ code.toNat ∧ code.toNat ≤ 7 ∧ t = afterError s code) ∧
    ∀ v, regWrite 0x00 v t = { t with pviol := true }

/-- R163: a command other than INIT before READY. -/
def Obligations.CommandsBeforeInit : Prop :=
  ∀ (i : Instr) (s : State), i ≠ .init → s.ready = false → exec i s = .next (afterError s 2)

/-! ### The ten commands -/

/-- R90, R96: INIT's whole outcome. -/
def Obligations.InitCommand : Prop :=
  ∀ s : State,
    decode 0x00000001 = .ok .init ∧
    (s.ready = true → exec .init s = .next (afterError s 3)) ∧
    (s.ready = false → IsBaseRoot s.omega → exec .init s = .next
      { s with inv := invWord, r := montOne, r2 := montTwo, wm := mont s.omega.toNat, ready := true, busy := false }) ∧
    (s.ready = false → ¬IsBaseRoot s.omega → exec .init s = .next (afterFatal s))

/-- R101: FROMCAN's whole outcome. -/
def Obligations.FromcanCommand : Prop :=
  ∀ (rd ra : Reg) (s : State),
    decode (BitVec.ofNat 64 (0x10 + rd.val * 2 ^ 8 + ra.val * 2 ^ 12)) = .ok (.fromcan rd ra) ∧
    (s.ready = false → exec (.fromcan rd ra) s = .next (afterError s 2)) ∧
    (s.ready = true → ¬Reduced (s.f.get ra) → exec (.fromcan rd ra) s = .next (afterError s 4)) ∧
    (s.ready = true → ConstantsDerived s → Reduced (s.f.get ra) →
      exec (.fromcan rd ra) s = .next (afterWrite s rd (mont (s.f.get ra).toNat)))

/-- R103: TOCAN's whole outcome. -/
def Obligations.TocanCommand : Prop :=
  ∀ (rd ra : Reg) (s : State),
    decode (BitVec.ofNat 64 (0x11 + rd.val * 2 ^ 8 + ra.val * 2 ^ 12)) = .ok (.tocan rd ra) ∧
    (s.ready = false → exec (.tocan rd ra) s = .next (afterError s 2)) ∧
    (s.ready = true → ¬Reduced (s.f.get ra) → exec (.tocan rd ra) s = .next (afterError s 5)) ∧
    (s.ready = true → ConstantsDerived s → Reduced (s.f.get ra) →
      exec (.tocan rd ra) s = .next (afterWrite s rd (BitVec.ofNat 128 (can (s.f.get ra)))))

/-- R116: MMUL's whole outcome. -/
def Obligations.MmulCommand : Prop :=
  ∀ (rd ra rb : Reg) (s : State),
    decode (BitVec.ofNat 64 (0x20 + rd.val * 2 ^ 8 + ra.val * 2 ^ 12 + rb.val * 2 ^ 16)) = .ok (.mmul rd ra rb) ∧
    (s.ready = false → exec (.mmul rd ra rb) s = .next (afterError s 2)) ∧
    (s.ready = true → (¬Reduced (s.f.get ra) ∨ ¬Reduced (s.f.get rb)) →
      exec (.mmul rd ra rb) s = .next (afterError s 5)) ∧
    (s.ready = true → ConstantsDerived s → Reduced (s.f.get ra) → Reduced (s.f.get rb) →
      exec (.mmul rd ra rb) s = .next (afterWrite s rd
        (BitVec.ofNat 128 ((s.f.get ra).toNat * (s.f.get rb).toNat * rInv % primeP))))

/-- R126: FADD's whole outcome. -/
def Obligations.FaddCommand : Prop :=
  ∀ (rd ra rb : Reg) (s : State),
    decode (BitVec.ofNat 64 (0x30 + rd.val * 2 ^ 8 + ra.val * 2 ^ 12 + rb.val * 2 ^ 16)) = .ok (.fadd rd ra rb) ∧
    (s.ready = false → exec (.fadd rd ra rb) s = .next (afterError s 2)) ∧
    (s.ready = true → (¬Reduced (s.f.get ra) ∨ ¬Reduced (s.f.get rb)) →
      exec (.fadd rd ra rb) s = .next (afterError s 5)) ∧
    (s.ready = true → Reduced (s.f.get ra) → Reduced (s.f.get rb) →
      exec (.fadd rd ra rb) s = .next (afterWrite s rd
        (BitVec.ofNat 128 (((s.f.get ra).toNat + (s.f.get rb).toNat) % primeP))))

/-- R128: FSUB's whole outcome. -/
def Obligations.FsubCommand : Prop :=
  ∀ (rd ra rb : Reg) (s : State),
    decode (BitVec.ofNat 64 (0x31 + rd.val * 2 ^ 8 + ra.val * 2 ^ 12 + rb.val * 2 ^ 16)) = .ok (.fsub rd ra rb) ∧
    (s.ready = false → exec (.fsub rd ra rb) s = .next (afterError s 2)) ∧
    (s.ready = true → (¬Reduced (s.f.get ra) ∨ ¬Reduced (s.f.get rb)) →
      exec (.fsub rd ra rb) s = .next (afterError s 5)) ∧
    (s.ready = true → Reduced (s.f.get ra) → Reduced (s.f.get rb) →
      exec (.fsub rd ra rb) s = .next (afterWrite s rd
        (BitVec.ofNat 128 (((s.f.get ra).toNat + primeP - (s.f.get rb).toNat) % primeP))))

/-- R130: FNEG's whole outcome. -/
def Obligations.FnegCommand : Prop :=
  ∀ (rd ra : Reg) (s : State),
    decode (BitVec.ofNat 64 (0x32 + rd.val * 2 ^ 8 + ra.val * 2 ^ 12)) = .ok (.fneg rd ra) ∧
    (s.ready = false → exec (.fneg rd ra) s = .next (afterError s 2)) ∧
    (s.ready = true → ¬Reduced (s.f.get ra) → exec (.fneg rd ra) s = .next (afterError s 5)) ∧
    (s.ready = true → Reduced (s.f.get ra) →
      exec (.fneg rd ra) s = .next (afterWrite s rd (BitVec.ofNat 128 ((primeP - (s.f.get ra).toNat) % primeP))))

/-- R137: FPOW's whole outcome; the exponent is never checked, and x^0 = 1 for every x. -/
def Obligations.FpowCommand : Prop :=
  ∀ (rd ra rb : Reg) (s : State),
    decode (BitVec.ofNat 64 (0x40 + rd.val * 2 ^ 8 + ra.val * 2 ^ 12 + rb.val * 2 ^ 16)) = .ok (.fpow rd ra rb) ∧
    (s.ready = false → exec (.fpow rd ra rb) s = .next (afterError s 2)) ∧
    (s.ready = true → ¬Reduced (s.f.get ra) → exec (.fpow rd ra rb) s = .next (afterError s 5)) ∧
    (s.ready = true → ConstantsDerived s → Reduced (s.f.get ra) →
      exec (.fpow rd ra rb) s = .next (afterWrite s rd (mont (can (s.f.get ra) ^ (s.f.get rb).toNat))))

/-- R140: FINV's whole outcome, the value as the power p − 2 (that it is the inverse: `FinvIsTheInverse`). -/
def Obligations.FinvCommand : Prop :=
  ∀ (rd ra : Reg) (s : State),
    decode (BitVec.ofNat 64 (0x41 + rd.val * 2 ^ 8 + ra.val * 2 ^ 12)) = .ok (.finv rd ra) ∧
    (s.ready = false → exec (.finv rd ra) s = .next (afterError s 2)) ∧
    (s.ready = true → ¬Reduced (s.f.get ra) → exec (.finv rd ra) s = .next (afterError s 5)) ∧
    (s.ready = true → s.f.get ra = 0 → exec (.finv rd ra) s = .next (afterError s 6)) ∧
    (s.ready = true → ConstantsDerived s → Reduced (s.f.get ra) → s.f.get ra ≠ 0 →
      exec (.finv rd ra) s = .next (afterWrite s rd (mont (can (s.f.get ra) ^ (primeP - 2)))))

/-- R147: ROOT's whole outcome, for every OMEGA that INIT accepts. -/
def Obligations.RootCommand : Prop :=
  ∀ (rd ra : Reg) (s : State),
    decode (BitVec.ofNat 64 (0x50 + rd.val * 2 ^ 8 + ra.val * 2 ^ 12)) = .ok (.root rd ra) ∧
    (s.ready = false → exec (.root rd ra) s = .next (afterError s 2)) ∧
    (s.ready = true → (¬∃ k, k ≤ 32 ∧ (s.f.get ra).toNat = 2 ^ k) →
      exec (.root rd ra) s = .next (afterError s 7)) ∧
    (∀ k, k ≤ 32 → s.ready = true → ConstantsDerived s → (s.f.get ra).toNat = 2 ^ k →
      exec (.root rd ra) s = .next (afterWrite s rd (mont (s.omega.toNat ^ 2 ^ (32 - k)))))

/-- R196: every value that a command writes to a field register is reduced, and so are WM, R and R2 once READY. -/
def Obligations.CommandsWriteReducedValues : Prop :=
  ∀ s : State, ConstantsDerived s →
    (s.ready = true → Reduced s.wm ∧ Reduced s.r ∧ Reduced s.r2) ∧
    ∀ i : Instr, ∃ t, exec i s = .next t ∧ ∀ j : Reg, t.f.get j = s.f.get j ∨ Reduced (t.f.get j)

/-! ### The datapath -/

/-- R112: `mulwide` is the exact product and position 4 stays 0. -/
def Obligations.MulwideIsTheExactProduct : Prop :=
  ∀ a b : Elem, (mulwide a b).value = a.toNat * b.toNat ∧ (mulwide a b).t4 = 0

/-- R115 (b), R119: the two rounds add (m0 + m1·2^64)·p and drop no carry, for every modulus and every input of four limbs, in
and outside the precondition of `redc`. -/
def Obligations.ReductionRoundsDropNoCarry : Prop :=
  ∀ (c : Config) (inv : Limb) (t : Accumulator), t.t4 = 0 →
    (redcRounds c inv t).value = t.value +
      ((roundMultiplier inv t.t0).toNat + (roundMultiplier inv (redcRound0 c inv t).t1).toNat * 2 ^ 64) * c.p.toNat

/-- R115 (a), (c): with INV·p[0] ≡ −1, each round zeros its limb, the value before subtraction is below 2p, and position 4 holds
0 or 1. For every modulus. -/
def Obligations.ReductionRoundsZeroTheirLimbs : Prop :=
  ∀ (c : Config) (inv : Limb) (t : Accumulator), loLimb c.p * inv = 0xFFFFFFFFFFFFFFFF → t.t4 = 0 →
    t.value < c.p.toNat * 2 ^ 128 →
    (redcRound0 c inv t).t0 = 0 ∧ (redcRounds c inv t).t0 = 0 ∧ (redcRounds c inv t).t1 = 0 ∧
    (redcRounds c inv t).t4.toNat ≤ 1 ∧ (redcRounds c inv t).value < 2 * c.p.toNat * 2 ^ 128

/-- R117: REDC is Montgomery reduction. For every modulus and INV with INV·p[0] ≡ −1: the result is reduced and is T·2^−128
modulo p, and it is what the one-word formula with N' gives; for the engine's p, T·R⁻¹ mod p, (a·b·R⁻¹) mod p and the
Montgomery form of a product. -/
def Obligations.RedcIsMontgomeryReduction : Prop :=
  (∀ (c : Config) (inv : Limb) (t : Accumulator), loLimb c.p * inv = 0xFFFFFFFFFFFFFFFF → t.t4 = 0 →
    t.value < c.p.toNat * 2 ^ 128 →
    (redc c inv t).toNat < c.p.toNat ∧ (redc c inv t).toNat * 2 ^ 128 % c.p.toNat = t.value % c.p.toNat ∧
    ∀ n : Nat, n < 2 ^ 128 → c.p.toNat * n % 2 ^ 128 = 2 ^ 128 - 1 →
      (redc c inv t).toNat =
        (let v := (t.value + t.value % 2 ^ 128 * n % 2 ^ 128 * c.p.toNat) / 2 ^ 128
         if c.p.toNat ≤ v then v - c.p.toNat else v)) ∧
  (∀ t : Accumulator, t.t4 = 0 → t.value < primeP * 2 ^ 128 →
    (redc Config.engine invWord t).toNat = t.value * rInv % primeP) ∧
  (∀ a b : Elem, Reduced a → Reduced b →
    (montmul Config.engine invWord a b).toNat = a.toNat * b.toNat * rInv % primeP) ∧
  (∀ x y : Nat, montmul Config.engine invWord (mont x) (mont y) = mont (x * y))

/-- R118: the algebra of `montmul` on reduced operands. -/
def Obligations.MontmulAlgebra : Prop :=
  ∀ a b c : Elem, Reduced a → Reduced b → Reduced c →
    montmul Config.engine invWord a b = montmul Config.engine invWord b a ∧
    montmul Config.engine invWord (montmul Config.engine invWord a b) c
      = montmul Config.engine invWord a (montmul Config.engine invWord b c) ∧
    montmul Config.engine invWord a montOne = a ∧
    montmul Config.engine invWord a 0 = 0 ∧
    montmul Config.engine invWord montOne montOne = montOne ∧
    montmul Config.engine invWord montTwo 1 = montOne ∧
    (montmul Config.engine invWord a 1).toNat = can a

/-- R91: `neginv64` is the one solution of p0·v ≡ −1 (mod 2^64) for odd p0; for even p0 there is none. -/
def Obligations.NeginvIsTheNegatedInverse : Prop :=
  ∀ p0 : Limb,
    (p0.toNat % 2 = 1 → p0 * neginv64 p0 = 0xFFFFFFFFFFFFFFFF ∧
      ∀ v : Limb, p0 * v = 0xFFFFFFFFFFFFFFFF → v = neginv64 p0) ∧
    (p0.toNat % 2 = 0 → ∀ v : Limb, p0 * v ≠ 0xFFFFFFFFFFFFFFFF)

/-- R131: the adder is correct on Montgomery forms, and on canonical forms. -/
def Obligations.AdderIsFormIndependent : Prop :=
  ∀ x y : Nat, x < primeP → y < primeP →
    fadd Config.engine (mont x) (mont y) = mont (x + y) ∧
    fsub Config.engine (mont x) (mont y) = mont (x + primeP - y) ∧
    fneg Config.engine (mont x) = mont (primeP - x) ∧
    (fadd Config.engine (BitVec.ofNat 128 x) (BitVec.ofNat 128 y)).toNat = (x + y) % primeP ∧
    (fsub Config.engine (BitVec.ofNat 128 x) (BitVec.ofNat 128 y)).toNat = (x + primeP - y) % primeP ∧
    (fneg Config.engine (BitVec.ofNat 128 x)).toNat = (primeP - x) % primeP

/-- R138: the laws of `fpow`. The last one rests on p being prime. -/
def Obligations.FpowLaws : Prop :=
  ∀ b e f : Elem, Reduced b →
    (e.toNat + f.toNat < 2 ^ 128 → fpow Config.engine invWord montOne b (e + f)
      = montmul Config.engine invWord (fpow Config.engine invWord montOne b e)
          (fpow Config.engine invWord montOne b f)) ∧
    (e.toNat * f.toNat < 2 ^ 128 → fpow Config.engine invWord montOne (fpow Config.engine invWord montOne b e) f
      = fpow Config.engine invWord montOne b (e * f)) ∧
    fpow Config.engine invWord montOne (fpow Config.engine invWord montOne b e) f
      = mont (can b ^ (e.toNat * f.toNat)) ∧
    fpow Config.engine invWord montOne b 2 = montmul Config.engine invWord b b ∧
    (b ≠ 0 → e.toNat % (primeP - 1) = f.toNat % (primeP - 1) →
      fpow Config.engine invWord montOne b e = fpow Config.engine invWord montOne b f)

/-- R141: FINV writes the inverse: `montmul(a, FINV(a)) = R`, and TOCAN of that is 1. It rests on p being prime. -/
def Obligations.FinvIsTheInverse : Prop :=
  ∀ (rd ra : Reg) (s : State), s.ready = true → ConstantsDerived s → Reduced (s.f.get ra) → s.f.get ra ≠ 0 →
    ∃ v, exec (.finv rd ra) s = .next (afterWrite s rd v) ∧
      montmul Config.engine s.inv (s.f.get ra) v = s.r ∧
      redc Config.engine s.inv (widen (montmul Config.engine s.inv (s.f.get ra) v)) = 1

/-- R104: conversion round trips, by the two commands, in both directions. -/
def Obligations.ConversionRoundTrips : Prop :=
  ∀ (rd rd' ra : Reg) (s : State), s.ready = true → ConstantsDerived s → Reduced (s.f.get ra) →
    (∃ t u, exec (.fromcan rd ra) s = .next t ∧ exec (.tocan rd' rd) t = .next u ∧ u.f.get rd' = s.f.get ra) ∧
    (∃ t u, exec (.tocan rd ra) s = .next t ∧ exec (.fromcan rd' rd) t = .next u ∧ u.f.get rd' = s.f.get ra)

/-- R150: the order of every root and the squaring relation, for every OMEGA that passes INIT. -/
def Obligations.RootsHaveExactOrder : Prop :=
  (∀ (w : Elem) (k : Nat), IsBaseRoot w → k ≤ 32 →
    let root := rootOfUnity Config.engine invWord montOne (mont w.toNat)
    let pow := fpow Config.engine invWord montOne
    pow (root k) (BitVec.ofNat 128 (2 ^ k)) = montOne ∧
    (1 ≤ k → pow (root k) (BitVec.ofNat 128 (2 ^ (k - 1))) = mont (primeP - 1) ∧ mont (primeP - 1) ≠ montOne) ∧
    (1 ≤ k → root (k - 1) = montmul Config.engine invWord (root k) (root k)) ∧
    root 0 = montOne ∧ root 1 = mont (primeP - 1) ∧ root 32 = mont w.toNat ∧
    montmul Config.engine invWord (root 2) (root 2) = mont (primeP - 1)) ∧
  ∃ w w' : Elem, IsBaseRoot w ∧ IsBaseRoot w' ∧
    rootOfUnity Config.engine invWord montOne (mont w.toNat) 2 ≠
      rootOfUnity Config.engine invWord montOne (mont w'.toNat) 2

/-! ### The port -/

/-- R13: the layout of STATUS. -/
def Obligations.StatusLayout : Prop :=
  ∀ s : State,
    (regRead 0x01 s).getLsbD 0 = s.busy ∧ (regRead 0x01 s).getLsbD 1 = s.ready ∧
    (regRead 0x01 s).getLsbD 2 = s.fatal ∧ (regRead 0x01 s).getLsbD 3 = s.err ∧
    (regRead 0x01 s).getLsbD 4 = s.pviol ∧ (regRead 0x01 s).extractLsb' 5 3 = 0 ∧
    (regRead 0x01 s).extractLsb' 8 8 = s.ecode ∧ (regRead 0x01 s).extractLsb' 16 48 = 0

/-- R45: what each address reads, and that a read step changes nothing of the engine. The last clause is about the model's read
step: the host's script and log of reads (log 1) and the countdown of `latency` (log 2). -/
def Obligations.ReadsOfTheRegisterMap : Prop :=
  ∀ s : State,
    regRead 0x00 s = 0 ∧
    regRead 0x01 s = BitVec.ofNat 64 (s.busy.toNat + 2 * s.ready.toNat + 4 * s.fatal.toNat + 8 * s.err.toNat
      + 16 * s.pviol.toNat + 256 * s.ecode.toNat) ∧
    regRead 0x02 s = s.ecmd ∧
    regRead 0x04 s = 0x0000000000000001 ∧ regRead 0x05 s = 0xFFFFF00000000000 ∧ regRead 0x06 s = s.inv ∧
    regRead 0x08 s = s.r.extractLsb' 0 64 ∧ regRead 0x09 s = s.r.extractLsb' 64 64 ∧
    regRead 0x0A s = s.r2.extractLsb' 0 64 ∧ regRead 0x0B s = s.r2.extractLsb' 64 64 ∧
    regRead 0x0C s = s.omega.extractLsb' 0 64 ∧ regRead 0x0D s = s.omega.extractLsb' 64 64 ∧
    regRead 0x0E s = s.wm.extractLsb' 0 64 ∧ regRead 0x0F s = s.wm.extractLsb' 64 64 ∧
    (∀ i : Reg, regRead (BitVec.ofNat 6 (0x20 + 2 * i.val)) s = (s.f.get i).extractLsb' 0 64 ∧
      regRead (BitVec.ofNat 6 (0x21 + 2 * i.val)) s = (s.f.get i).extractLsb' 64 64) ∧
    (∀ a : PortAddr, a = 0x03 ∨ a = 0x07 ∨ (0x10 ≤ a.toNat ∧ a.toNat ≤ 0x1F) → regRead a s = 0) ∧
    (∀ (a : PortAddr) (rest : List Transaction), engineTurn s = false → s.script = .read a :: rest →
      step s = .next { s with script := rest, reads := s.reads ++ [(a, regRead a s)], latency := s.latency - 1 })

/-- R47: accepted data writes replace one limb and nothing else, whatever the phase and ERR (field registers). -/
def Obligations.AcceptedDataWrites : Prop :=
  ∀ (s : State) (v : PortWord), s.busy = false →
    (∀ i : Reg,
      regWrite (BitVec.ofNat 6 (0x20 + 2 * i.val)) v s
        = { s with f := s.f.set i ((s.f.get i).extractLsb' 64 64 ++ v) } ∧
      regWrite (BitVec.ofNat 6 (0x21 + 2 * i.val)) v s
        = { s with f := s.f.set i (v ++ (s.f.get i).extractLsb' 0 64) }) ∧
    (s.ready = false → s.fatal = false →
      regWrite 0x0C v s = { s with omega := s.omega.extractLsb' 64 64 ++ v } ∧
      regWrite 0x0D v s = { s with omega := v ++ s.omega.extractLsb' 0 64 })

/-- R42: the two limb writes of a field register, in either order. -/
def Obligations.TwoLimbWritesInEitherOrder : Prop :=
  ∀ (s : State) (i : Reg) (lo hi : PortWord), s.busy = false →
    regWrite (BitVec.ofNat 6 (0x21 + 2 * i.val)) hi (regWrite (BitVec.ofNat 6 (0x20 + 2 * i.val)) lo s)
      = { s with f := s.f.set i (BitVec.ofNat 128 (lo.toNat + hi.toNat * 2 ^ 64)) } ∧
    regWrite (BitVec.ofNat 6 (0x20 + 2 * i.val)) lo (regWrite (BitVec.ofNat 6 (0x21 + 2 * i.val)) hi s)
      = { s with f := s.f.set i (BitVec.ofNat 128 (lo.toNat + hi.toNat * 2 ^ 64)) }

/-- R48: an accepted command write latches the word and sets BUSY; READY is no part of the condition. -/
def Obligations.AcceptedCommandWrite : Prop :=
  ∀ (s : State) (v : PortWord), s.busy = false → s.err = false → s.fatal = false →
    regWrite 0x00 v s = { s with cmdr := v, busy := true }

/-- R49: a STATUS write is accepted in every state. -/
def Obligations.StatusWriteAcknowledges : Prop :=
  ∀ (s : State) (v : PortWord),
    regWrite 0x01 v s = { s with
      err := s.err && !v.getLsbD 3
      pviol := s.pviol && !v.getLsbD 4
      ecode := if v.getLsbD 3 = true ∧ s.fatal = false then 0 else s.ecode
      ecmd := if v.getLsbD 3 = true ∧ s.fatal = false then 0 else s.ecmd }

/-- R173: after the acknowledge of a recoverable error, nothing is restored and CMD writes are accepted again. -/
def Obligations.AcknowledgeReopensTheEngine : Prop :=
  ∀ (s : State) (v : PortWord), s.err = true → s.fatal = false → s.busy = false →
    regWrite 0x01 0x8 s = { s with err := false, ecode := 0, ecmd := 0 } ∧
    regWrite 0x00 v (regWrite 0x01 0x8 s) = { s with err := false, ecode := 0, ecmd := 0, cmdr := v, busy := true }

/-- R50: exactly the listed writes are dropped, and a dropped write changes PVIOL only. -/
def Obligations.DroppedWritesExactly : Prop :=
  ∀ (a : PortAddr) (v : PortWord) (s : State),
    let dropped :=
      (a = 0x00 ∧ (s.busy = true ∨ s.err = true ∨ s.fatal = true)) ∨
      (0x20 ≤ a.toNat ∧ s.busy = true) ∨
      ((a = 0x0C ∨ a = 0x0D) ∧ (s.busy = true ∨ s.ready = true ∨ s.fatal = true)) ∨
      a.toNat ∈ [0x02, 0x04, 0x05, 0x06, 0x08, 0x09, 0x0A, 0x0B, 0x0E, 0x0F] ∨
      (a.toNat = 0x03 ∨ a.toNat = 0x07 ∨ (0x10 ≤ a.toNat ∧ a.toNat ≤ 0x1F))
    (dropped → regWrite a v s = { s with pviol := true }) ∧
    (¬dropped → s.pviol = false → (regWrite a v s).pviol = false)

/-! ### Reset, phases and invariants -/

/-- R31: the reset values, and P. -/
def Obligations.ResetValues : Prop :=
  State.reset.inv = 0 ∧ State.reset.r = 0 ∧ State.reset.r2 = 0 ∧ State.reset.omega = 0 ∧ State.reset.wm = 0 ∧
  (∀ i : Reg, State.reset.f.get i = 0) ∧ State.reset.cmdr = 0 ∧ State.reset.busy = false ∧
  State.reset.ready = false ∧ State.reset.fatal = false ∧ State.reset.err = false ∧ State.reset.pviol = false ∧
  State.reset.ecode = 0 ∧ State.reset.ecmd = 0 ∧ Config.engine.p.toNat = primeP

/-- R185, R186: `RESET` as a step, whatever was running. The host's own fields are the model's (logs 1 and 2). -/
def Obligations.ResetStep : Prop :=
  ∀ (s : State) (rest : List Transaction), engineTurn s = false → s.script = .reset :: rest →
    step s = .next { State.reset with
      script := rest, reads := s.reads, issued := s.issued, latency := s.latency - 1 }

/-- R176 (a) to (f): kept by every step of either agent. -/
def Obligations.StepKeepsTheInvariant : Prop :=
  ∀ s t : State, EngineInvariant s → step s = .next t → EngineInvariant t

/-- R176: true after reset. -/
def Obligations.ResetMeetsTheInvariant : Prop := EngineInvariant State.reset

/-- R175: the phases and their only transitions. -/
def Obligations.PhaseTransitions : Prop :=
  ∀ s t : State, EngineInvariant s → step s = .next t →
    phase t = phase s ∨
    (phase s = .uninit ∧ engineTurn s = true ∧ decode s.cmdr = .ok .init ∧
      (phase t = .ready ↔ IsBaseRoot s.omega) ∧ (phase t = .fatal ↔ ¬IsBaseRoot s.omega)) ∨
    (phase t = .uninit ∧ ResetIsNext s)

/-- R15, R94, R185: once READY, the constants and OMEGA never change but by RESET. -/
def Obligations.ConstantsNeverChange : Prop :=
  ∀ s t : State, s.ready = true → ¬ResetIsNext s → step s = .next t →
    t.ready = true ∧ t.inv = s.inv ∧ t.r = s.r ∧ t.r2 = s.r2 ∧ t.wm = s.wm ∧ t.omega = s.omega

/-- R161, R175: in phase FATAL no command is ever latched or run again, and the record of the failure stays, until RESET. -/
def Obligations.FatalIsLeftOnlyByReset : Prop :=
  ∀ s t : State, EngineInvariant s → s.fatal = true → ¬ResetIsNext s → step s = .next t →
    t.fatal = true ∧ t.busy = false ∧ t.ready = false ∧ t.err = false ∧ t.ecode = 8 ∧ t.ecmd = s.ecmd ∧
    t.cmdr = s.cmdr ∧ t.omega = s.omega ∧ t.inv = 0 ∧ t.r = 0 ∧ t.r2 = 0 ∧ t.wm = 0

/-- R158, R50: while a command is latched, no host step but RESET changes the command or anything it reads. Whose turn it is is
the model's interleaving of R54 (log 2). -/
def Obligations.BusyFreezesTheOperands : Prop :=
  ∀ s t : State, s.busy = true → engineTurn s = false → ¬ResetIsNext s → step s = .next t →
    t.busy = true ∧ t.cmdr = s.cmdr ∧ t.f = s.f ∧ t.omega = s.omega ∧ t.inv = s.inv ∧ t.r = s.r ∧ t.r2 = s.r2 ∧
    t.wm = s.wm ∧ t.ready = s.ready ∧ t.fatal = s.fatal

/-- R70, R193: a `WAIT` ends with BUSY = 0, whether it finds the engine busy (after at most the free latency's polls, the
`Execute` and one more poll) or idle (one poll). The bound is the model's (log 2). -/
def Obligations.WaitEnds : Prop :=
  ∀ (s : State) (rest : List Transaction), s.script = .wait :: rest →
    ∃ k t, k ≤ s.latency + 2 ∧ Host.Core.run core k s = .next t ∧ t.busy = false ∧ t.script = rest

/-- R46, R155, R158: no step stops: every event has a defined next state. The idle step is the model's (log 3). -/
def Obligations.EveryStepHasANextState : Prop :=
  ∀ s : State, ∃ t, step s = .next t ∧ (Finished s → t = s)

/-- R46, R48, R54: a `WR` step is `RegWrite` on the port, for every address and value. The host's script and the countdown of
`latency` are the model's (logs 1 and 2); a new latency is chosen exactly when the write latched a command (R48). -/
def Obligations.WriteStepIsThePortWrite : Prop :=
  ∀ (s : State) (a : PortAddr) (v : PortWord) (rest : List Transaction),
    engineTurn s = false → s.script = .write a v :: rest →
    let t := regWrite a v { s with script := rest, latency := s.latency - 1 }
    ((a = 0x00 ∧ s.busy = false ∧ s.err = false ∧ s.fatal = false) →
      step s = .next { t with latency := Config.latency s.issued, issued := s.issued + 1 }) ∧
    (¬(a = 0x00 ∧ s.busy = false ∧ s.err = false ∧ s.fatal = false) → step s = .next t)

/-- R199, R175, R176: a state with BUSY = 1 is never final, since `Execute` is enabled; at the good end of a program that meant to
compute the engine is in phase READY with no error recorded and its constants derived; a state with ERR = 1 or FATAL = 1 is
no good end of any program. -/
def Obligations.EndOfARun : Prop :=
  ∀ s : State,
    (s.busy = true → ¬Finished s ∧ (s.script = [] → step s = execute s)) ∧
    (EngineInvariant s → GoodEnd true s →
      phase s = .ready ∧ s.ecode = 0 ∧ s.inv = invWord ∧ s.r = montOne ∧ s.r2 = montTwo ∧
      s.wm = mont s.omega.toNat ∧ IsBaseRoot s.omega) ∧
    ((s.err = true ∨ s.fatal = true) → ∀ meant, ¬GoodEnd meant s)
end

