-- ==== Sys2Proof/Laws/Limb.lean ====
section
/-! SUPPORT. What each datapath primitive computes, as numbers (R80 to R85, R112): cite these instead of unfolding. -/

namespace Sys2Proof.Machine

theorem limb_zero : (0 : Limb).toNat = 0 := rfl

theorem loLimb_toNat (x : Elem) : (loLimb x).toNat = x.toNat % 2 ^ 64 := by
  simp [loLimb]

theorem hiLimb_toNat (x : Elem) : (hiLimb x).toNat = x.toNat / 2 ^ 64 := by
  have := x.isLt
  simp only [hiLimb, BitVec.extractLsb'_toNat, Nat.shiftRight_eq_div_pow]
  exact Nat.mod_eq_of_lt (by omega)

/-- A 128-bit value is its two limbs (R8). -/
theorem limbs_value (x : Elem) : (loLimb x).toNat + (hiLimb x).toNat * 2 ^ 64 = x.toNat := by
  rw [loLimb_toNat, hiLimb_toNat]; omega

theorem ofLimbs_toNat (lo hi : Limb) : (ofLimbs lo hi).toNat = lo.toNat + hi.toNat * 2 ^ 64 := by
  have h := lo.isLt
  simp only [ofLimbs, BitVec.toNat_append, Nat.shiftLeft_eq]
  rw [Nat.mul_comm, ← Nat.two_pow_add_eq_or_of_lt h]; omega

@[simp] theorem loLimb_ofLimbs (lo hi : Limb) : loLimb (ofLimbs lo hi) = lo := by
  apply BitVec.eq_of_toNat_eq
  have := lo.isLt
  rw [loLimb_toNat, ofLimbs_toNat]; omega

@[simp] theorem hiLimb_ofLimbs (lo hi : Limb) : hiLimb (ofLimbs lo hi) = hi := by
  apply BitVec.eq_of_toNat_eq
  have := lo.isLt
  rw [hiLimb_toNat, ofLimbs_toNat]; omega

@[simp] theorem ofLimbs_limbs (x : Elem) : ofLimbs (loLimb x) (hiLimb x) = x := by
  apply BitVec.eq_of_toNat_eq
  rw [ofLimbs_toNat, limbs_value]

/-- `mul64` is exact (R80). -/
theorem mul64_value (a b : Limb) : (mul64 a b).1.toNat + (mul64 a b).2.toNat * 2 ^ 64 = a.toNat * b.toNat := by
  have h : a.toNat * b.toNat < 2 ^ 64 * 2 ^ 64 := Nat.mul_lt_mul'' a.isLt b.isLt
  simp only [mul64, BitVec.toNat_ofNat]
  generalize a.toNat * b.toNat = n at h ⊢
  omega

/-- `addc` keeps the carry (R81). -/
theorem addc_value (a b : Limb) (cin : Bool) :
    (addc a b cin).1.toNat + (addc a b cin).2.toNat * 2 ^ 64 = a.toNat + b.toNat + cin.toNat := by
  have ha := a.isLt
  have hb := b.isLt
  have hc := Bool.toNat_le cin
  simp only [addc, BitVec.toNat_ofNat]
  by_cases h : 2 ^ 64 ≤ a.toNat + b.toNat + cin.toNat <;> simp only [h, decide_true, decide_false,
    Bool.toNat_true, Bool.toNat_false] <;> omega

/-- `subb` keeps the borrow (R82). -/
theorem subb_value (a b : Limb) (bin : Bool) :
    (subb a b bin).1.toNat + (b.toNat + bin.toNat) = a.toNat + (subb a b bin).2.toNat * 2 ^ 64 := by
  have ha := a.isLt
  have hb := b.isLt
  have hc := Bool.toNat_le bin
  simp only [subb, BitVec.toNat_ofNat]
  by_cases h : a.toNat < b.toNat + bin.toNat <;> simp only [h, decide_true, decide_false,
    Bool.toNat_true, Bool.toNat_false] <;> omega

/-- `mac` is exact: no carry is lost (R83). -/
theorem mac_value (t x y c : Limb) :
    (mac t x y c).1.toNat + (mac t x y c).2.toNat * 2 ^ 64 = t.toNat + x.toNat * y.toNat + c.toNat := by
  have hm := mul64_value x y
  have h1 := addc_value t (mul64 x y).1 false
  have h2 := addc_value (addc t (mul64 x y).1 false).1 c false
  have ht := t.isLt
  have hc := c.isLt
  have hb : x.toNat * y.toNat ≤ (2 ^ 64 - 1) * (2 ^ 64 - 1) :=
    Nat.mul_le_mul (by have := x.isLt; omega) (by have := y.isLt; omega)
  simp only [Bool.toNat_false] at h1 h2
  simp only [mac, BitVec.toNat_ofNat]
  generalize x.toNat * y.toNat = n at hm hb ⊢
  generalize (mul64 x y).1 = lo at *
  generalize (mul64 x y).2.toNat = hi at *
  generalize addc t lo false = p1 at *
  generalize addc p1.1 c false = p2 at *
  have hlo := lo.isLt
  have hp1 := p1.1.isLt
  have hp2 := p2.1.isLt
  norm_num at hb
  have hc' : hi + p1.2.toNat + p2.2.toNat < 2 ^ 64 := by omega
  rw [Nat.mod_eq_of_lt hc']
  linarith

/-- `ge_p` compares the 129-bit value with p (R85). -/
theorem geP_iff (c : Config) (v0 v1 : Limb) (v2 : Bool) :
    geP c v0 v1 v2 = true ↔ c.p.toNat ≤ v0.toNat + v1.toNat * 2 ^ 64 + v2.toNat * 2 ^ 128 := by
  have hp := limbs_value c.p
  have hpl := (loLimb c.p).isLt
  have h0 := v0.isLt
  have h1 := v1.isLt
  have hlt := c.p.isLt
  simp only [geP, Bool.or_eq_true, Bool.and_eq_true, decide_eq_true_eq, beq_iff_eq, BitVec.lt_def, BitVec.le_def,
    ← BitVec.toNat_inj]
  cases v2 <;> simp only [Bool.toNat_false, Bool.toNat_true, Bool.false_eq_true, false_or, true_or, true_iff] <;> omega

/-- `lt_p` says that a register value is reduced (R85). -/
theorem ltP_iff (c : Config) (x : Elem) : ltP c x = true ↔ x.toNat < c.p.toNat := by
  have h := geP_iff c (loLimb x) (hiLimb x) false
  rw [limbs_value x] at h
  simp only [Bool.toNat_false, Nat.zero_mul, Nat.add_zero] at h
  rw [ltP, Bool.not_eq_true', ← Bool.not_eq_true, h]
  omega

/-- The one conditional subtraction (R85), for a value below 2p. -/
theorem reduceOnce_toNat (c : Config) (v0 v1 : Limb) (v2 : Bool)
    (h : v0.toNat + v1.toNat * 2 ^ 64 + v2.toNat * 2 ^ 128 < 2 * c.p.toNat) :
    (reduceOnce c v0 v1 v2).toNat = (v0.toNat + v1.toNat * 2 ^ 64 + v2.toNat * 2 ^ 128) % c.p.toNat := by
  have hp := limbs_value c.p
  have hlt := c.p.isLt
  have h0 := v0.isLt
  have h1 := v1.isLt
  have s0 := subb_value v0 (loLimb c.p) false
  have s1 := subb_value v1 (hiLimb c.p) (subb v0 (loLimb c.p) false).2
  have hg := geP_iff c v0 v1 v2
  have hd0 := (subb v0 (loLimb c.p) false).1.isLt
  have hd1 := (subb v1 (hiLimb c.p) (subb v0 (loLimb c.p) false).2).1.isLt
  have hb0 := Bool.toNat_le (subb v0 (loLimb c.p) false).2
  have hb1 := Bool.toNat_le (subb v1 (hiLimb c.p) (subb v0 (loLimb c.p) false).2).2
  have hv2 := Bool.toNat_le v2
  simp only [Bool.toNat_false] at s0
  unfold reduceOnce
  by_cases hge : geP c v0 v1 v2 = true
  · have hle := hg.1 hge
    rw [if_pos hge, Nat.mod_eq_sub_mod hle, Nat.mod_eq_of_lt (by omega)]
    simp only [subP]
    rw [ofLimbs_toNat]
    omega
  · rw [if_neg hge, ofLimbs_toNat]
    have hlt' : ¬ c.p.toNat ≤ v0.toNat + v1.toNat * 2 ^ 64 + v2.toNat * 2 ^ 128 := fun h => hge (hg.2 h)
    have hv : v2.toNat = 0 := by omega
    rw [Nat.mod_eq_of_lt (by omega), hv]; omega

/-- The ripple from position 2 loses nothing below the top of position 4 (R84). -/
theorem carryInto2_value (t : Accumulator) (c : Limb) (h : t.value + c.toNat * 2 ^ 128 < 2 ^ 256 * 2 ^ 64) :
    (carryInto2 t c).value = t.value + c.toNat * 2 ^ 128 := by
  have h2 := addc_value t.t2 c false
  have h3 := addc_value t.t3 0 (addc t.t2 c false).2
  have h4 := addc_value t.t4 0 (addc t.t3 0 (addc t.t2 c false).2).2
  simp only [Bool.toNat_false, limb_zero] at h2 h3 h4
  have b := Bool.toNat_le (addc t.t4 0 (addc t.t3 0 (addc t.t2 c false).2).2).2
  simp only [Accumulator.value, carryInto2] at h ⊢
  omega

/-- The ripple from position 3 loses nothing below the top of position 4 (R84). -/
theorem carryInto3_value (t : Accumulator) (c : Limb) (h : t.value + c.toNat * 2 ^ 192 < 2 ^ 256 * 2 ^ 64) :
    (carryInto3 t c).value = t.value + c.toNat * 2 ^ 192 := by
  have h3 := addc_value t.t3 c false
  have h4 := addc_value t.t4 0 (addc t.t3 c false).2
  simp only [Bool.toNat_false, limb_zero] at h3 h4
  have b := Bool.toNat_le (addc t.t4 0 (addc t.t3 c false).2).2
  simp only [Accumulator.value, carryInto3] at h ⊢
  omega

/-- Row 0 adds its product at offset 0 (R112, R113). -/
theorem addRow0_value (x y0 y1 : Limb) (t : Accumulator)
    (h : t.value + x.toNat * (y0.toNat + y1.toNat * 2 ^ 64) < 2 ^ 256 * 2 ^ 64) :
    (addRow0 x y0 y1 t).value = t.value + x.toNat * (y0.toNat + y1.toNat * 2 ^ 64) := by
  have m0 := mac_value t.t0 x y0 0
  have m1 := mac_value t.t1 x y1 (mac t.t0 x y0 0).2
  simp only [limb_zero, Nat.add_zero] at m0
  rw [Nat.mul_add, ← Nat.mul_assoc] at h ⊢
  have key := carryInto2_value { t with t0 := (mac t.t0 x y0 0).1, t1 := (mac t.t1 x y1 (mac t.t0 x y0 0).2).1 }
    (mac t.t1 x y1 (mac t.t0 x y0 0).2).2
  simp only [addRow0]
  generalize x.toNat * y0.toNat = n0 at *
  generalize x.toNat * y1.toNat = n1 at *
  simp only [Accumulator.value] at key h ⊢
  rw [key (by omega)]
  omega

/-- Row 1 adds its product at offset 1 (R112, R113). -/
theorem addRow1_value (x y0 y1 : Limb) (t : Accumulator)
    (h : t.value + x.toNat * (y0.toNat + y1.toNat * 2 ^ 64) * 2 ^ 64 < 2 ^ 256 * 2 ^ 64) :
    (addRow1 x y0 y1 t).value = t.value + x.toNat * (y0.toNat + y1.toNat * 2 ^ 64) * 2 ^ 64 := by
  have m0 := mac_value t.t1 x y0 0
  have m1 := mac_value t.t2 x y1 (mac t.t1 x y0 0).2
  simp only [limb_zero, Nat.add_zero] at m0
  rw [Nat.mul_add, ← Nat.mul_assoc] at h ⊢
  have key := carryInto3_value { t with t1 := (mac t.t1 x y0 0).1, t2 := (mac t.t2 x y1 (mac t.t1 x y0 0).2).1 }
    (mac t.t2 x y1 (mac t.t1 x y0 0).2).2
  simp only [addRow1]
  generalize x.toNat * y0.toNat = n0 at *
  generalize x.toNat * y1.toNat = n1 at *
  simp only [Accumulator.value] at key h ⊢
  rw [key (by linarith)]
  linarith

end Sys2Proof.Machine
end

