-- ==== Sys2Proof/Laws/Field.lean ====
section
/-! SUPPORT. What the adder computes (R125, R127, R129), for every modulus, and modular squaring chains. -/

namespace Sys2Proof.Machine

/-- `fadd` on reduced operands (R125). -/
theorem fadd_toNat (c : Config) (a b : Elem) (ha : a.toNat < c.p.toNat) (hb : b.toNat < c.p.toNat) :
    (fadd c a b).toNat = (a.toNat + b.toNat) % c.p.toNat := by
  have la := limbs_value a
  have lb := limbs_value b
  have s0 := addc_value (loLimb a) (loLimb b) false
  have s1 := addc_value (hiLimb a) (hiLimb b) (addc (loLimb a) (loLimb b) false).2
  simp only [Bool.toNat_false] at s0
  simp only [fadd]
  rw [reduceOnce_toNat _ _ _ _ (by omega)]
  congr 1
  omega

/-- `fsub` on reduced operands (R127). -/
theorem fsub_toNat (c : Config) (a b : Elem) (ha : a.toNat < c.p.toNat) (hb : b.toNat < c.p.toNat) :
    (fsub c a b).toNat = (a.toNat + c.p.toNat - b.toNat) % c.p.toNat := by
  have la := limbs_value a
  have lb := limbs_value b
  have lp := limbs_value c.p
  have hp := c.p.isLt
  have d0 := subb_value (loLimb a) (loLimb b) false
  have d1 := subb_value (hiLimb a) (hiLimb b) (subb (loLimb a) (loLimb b) false).2
  simp only [fsub]
  generalize subb (loLimb a) (loLimb b) false = x0 at *
  generalize subb (hiLimb a) (hiLimb b) x0.2 = x1 at *
  have e0 := addc_value x0.1 (loLimb c.p) false
  have e1 := addc_value x1.1 (hiLimb c.p) (addc x0.1 (loLimb c.p) false).2
  generalize addc x0.1 (loLimb c.p) false = y0 at *
  generalize addc x1.1 (hiLimb c.p) y0.2 = y1 at *
  simp only [Bool.toNat_false] at d0 e0
  have hx0 := x0.1.isLt
  have hx1 := x1.1.isLt
  have hy0 := y0.1.isLt
  have hy1 := y1.1.isLt
  have hc := Bool.toNat_le y1.2
  by_cases hw : x1.2 = true
  · rw [if_pos hw, ofLimbs_toNat]
    rw [hw, Bool.toNat_true] at d1
    have total : y0.1.toNat + y1.1.toNat * 2 ^ 64 + y1.2.toNat * 2 ^ 128 + b.toNat
        = a.toNat + c.p.toNat + 2 ^ 128 := by linarith
    have hd : x0.1.toNat + x1.1.toNat * 2 ^ 64 + b.toNat = a.toNat + 2 ^ 128 := by linarith
    clear la lb lp d0 d1 e0 e1
    have hab : a.toNat < b.toNat := by omega
    rw [Nat.mod_eq_of_lt (by omega)]
    omega
  · rw [if_neg hw, ofLimbs_toNat]
    rw [Bool.not_eq_true] at hw
    rw [hw, Bool.toNat_false] at d1
    rw [show a.toNat + c.p.toNat - b.toNat = (a.toNat - b.toNat) + c.p.toNat from by omega, Nat.add_mod_right,
      Nat.mod_eq_of_lt (by omega)]
    omega

/-- `fneg` on a reduced operand (R129). -/
theorem fneg_toNat (c : Config) (a : Elem) (ha : a.toNat < c.p.toNat) :
    (fneg c a).toNat = (c.p.toNat - a.toNat) % c.p.toNat := by
  have h := fsub_toNat c 0 a (Nat.lt_of_le_of_lt (Nat.zero_le _) ha) ha
  rw [show (0 : Elem).toNat = 0 from rfl, Nat.zero_add] at h
  exact h

/-- `k` modular squarings of a number. -/
def squareMod (n : Nat) : Nat → Nat → Nat
  | 0, x => x
  | k + 1, x => squareMod n k (x * x % n)

/-- A chain of squarings is a power of two powers of two: how a base root is checked (R93). -/
theorem squareMod_mod (n k x : Nat) : squareMod n k x % n = x ^ 2 ^ k % n := by
  induction k generalizing x with
  | zero => simp [squareMod]
  | succ k ih =>
    rw [squareMod, ih, ← Nat.pow_mod, ← Nat.pow_two, ← Nat.pow_mul, Nat.pow_succ']

end Sys2Proof.Machine
end

