-- ==== Sys2Proof/Laws/State.lean ====
section
/-! SUPPORT. One lemma per field per update of the state, so that no proof unfolds a record update. -/

namespace Sys2Proof.Machine

section writeRegFields
variable (s : State) (i : Reg) (v : Elem)
@[simp] theorem writeReg_inv : (writeReg s i v).inv = s.inv := rfl
@[simp] theorem writeReg_r : (writeReg s i v).r = s.r := rfl
@[simp] theorem writeReg_r2 : (writeReg s i v).r2 = s.r2 := rfl
@[simp] theorem writeReg_omega : (writeReg s i v).omega = s.omega := rfl
@[simp] theorem writeReg_wm : (writeReg s i v).wm = s.wm := rfl
@[simp] theorem writeReg_f : (writeReg s i v).f = s.f.set i v := rfl
@[simp] theorem writeReg_cmdr : (writeReg s i v).cmdr = s.cmdr := rfl
@[simp] theorem writeReg_busy : (writeReg s i v).busy = s.busy := rfl
@[simp] theorem writeReg_ready : (writeReg s i v).ready = s.ready := rfl
@[simp] theorem writeReg_fatal : (writeReg s i v).fatal = s.fatal := rfl
@[simp] theorem writeReg_err : (writeReg s i v).err = s.err := rfl
@[simp] theorem writeReg_pviol : (writeReg s i v).pviol = s.pviol := rfl
@[simp] theorem writeReg_ecode : (writeReg s i v).ecode = s.ecode := rfl
@[simp] theorem writeReg_ecmd : (writeReg s i v).ecmd = s.ecmd := rfl
@[simp] theorem writeReg_script : (writeReg s i v).script = s.script := rfl
@[simp] theorem writeReg_reads : (writeReg s i v).reads = s.reads := rfl
@[simp] theorem writeReg_issued : (writeReg s i v).issued = s.issued := rfl
@[simp] theorem writeReg_latency : (writeReg s i v).latency = s.latency := rfl
end writeRegFields

section raiseFields
variable (e : ErrorCode) (s : State)
@[simp] theorem raise_inv : (raise e s).inv = s.inv := rfl
@[simp] theorem raise_r : (raise e s).r = s.r := rfl
@[simp] theorem raise_r2 : (raise e s).r2 = s.r2 := rfl
@[simp] theorem raise_omega : (raise e s).omega = s.omega := rfl
@[simp] theorem raise_wm : (raise e s).wm = s.wm := rfl
@[simp] theorem raise_f : (raise e s).f = s.f := rfl
@[simp] theorem raise_cmdr : (raise e s).cmdr = s.cmdr := rfl
@[simp] theorem raise_busy : (raise e s).busy = false := rfl
@[simp] theorem raise_ready : (raise e s).ready = s.ready := rfl
@[simp] theorem raise_fatal : (raise e s).fatal = s.fatal := rfl
@[simp] theorem raise_err : (raise e s).err = true := rfl
@[simp] theorem raise_pviol : (raise e s).pviol = s.pviol := rfl
@[simp] theorem raise_ecode : (raise e s).ecode = errorCodeValue e := rfl
@[simp] theorem raise_ecmd : (raise e s).ecmd = s.cmdr := rfl
@[simp] theorem raise_script : (raise e s).script = s.script := rfl
@[simp] theorem raise_reads : (raise e s).reads = s.reads := rfl
@[simp] theorem raise_issued : (raise e s).issued = s.issued := rfl
@[simp] theorem raise_latency : (raise e s).latency = s.latency := rfl
end raiseFields

section raiseFatalFields
variable (s : State)
@[simp] theorem raiseFatal_inv : (raiseFatal s).inv = s.inv := rfl
@[simp] theorem raiseFatal_r : (raiseFatal s).r = s.r := rfl
@[simp] theorem raiseFatal_r2 : (raiseFatal s).r2 = s.r2 := rfl
@[simp] theorem raiseFatal_omega : (raiseFatal s).omega = s.omega := rfl
@[simp] theorem raiseFatal_wm : (raiseFatal s).wm = s.wm := rfl
@[simp] theorem raiseFatal_f : (raiseFatal s).f = s.f := rfl
@[simp] theorem raiseFatal_cmdr : (raiseFatal s).cmdr = s.cmdr := rfl
@[simp] theorem raiseFatal_busy : (raiseFatal s).busy = false := rfl
@[simp] theorem raiseFatal_ready : (raiseFatal s).ready = s.ready := rfl
@[simp] theorem raiseFatal_fatal : (raiseFatal s).fatal = true := rfl
@[simp] theorem raiseFatal_err : (raiseFatal s).err = s.err := rfl
@[simp] theorem raiseFatal_pviol : (raiseFatal s).pviol = s.pviol := rfl
@[simp] theorem raiseFatal_ecode : (raiseFatal s).ecode = 8 := rfl
@[simp] theorem raiseFatal_ecmd : (raiseFatal s).ecmd = s.cmdr := rfl
@[simp] theorem raiseFatal_script : (raiseFatal s).script = s.script := rfl
@[simp] theorem raiseFatal_reads : (raiseFatal s).reads = s.reads := rfl
@[simp] theorem raiseFatal_issued : (raiseFatal s).issued = s.issued := rfl
@[simp] theorem raiseFatal_latency : (raiseFatal s).latency = s.latency := rfl
end raiseFatalFields

section commitFields
variable (rd : Reg) (v : Elem) (s : State)
@[simp] theorem commit_inv : (commit rd v s).inv = s.inv := rfl
@[simp] theorem commit_r : (commit rd v s).r = s.r := rfl
@[simp] theorem commit_r2 : (commit rd v s).r2 = s.r2 := rfl
@[simp] theorem commit_omega : (commit rd v s).omega = s.omega := rfl
@[simp] theorem commit_wm : (commit rd v s).wm = s.wm := rfl
@[simp] theorem commit_f : (commit rd v s).f = s.f.set rd v := rfl
@[simp] theorem commit_cmdr : (commit rd v s).cmdr = s.cmdr := rfl
@[simp] theorem commit_busy : (commit rd v s).busy = false := rfl
@[simp] theorem commit_ready : (commit rd v s).ready = s.ready := rfl
@[simp] theorem commit_fatal : (commit rd v s).fatal = s.fatal := rfl
@[simp] theorem commit_err : (commit rd v s).err = s.err := rfl
@[simp] theorem commit_pviol : (commit rd v s).pviol = s.pviol := rfl
@[simp] theorem commit_ecode : (commit rd v s).ecode = s.ecode := rfl
@[simp] theorem commit_ecmd : (commit rd v s).ecmd = s.ecmd := rfl
@[simp] theorem commit_script : (commit rd v s).script = s.script := rfl
@[simp] theorem commit_reads : (commit rd v s).reads = s.reads := rfl
@[simp] theorem commit_issued : (commit rd v s).issued = s.issued := rfl
@[simp] theorem commit_latency : (commit rd v s).latency = s.latency := rfl
end commitFields

section commitConstantsFields
variable (k : Constants) (s : State)
@[simp] theorem commitConstants_inv : (commitConstants k s).inv = k.inv := rfl
@[simp] theorem commitConstants_r : (commitConstants k s).r = k.r := rfl
@[simp] theorem commitConstants_r2 : (commitConstants k s).r2 = k.r2 := rfl
@[simp] theorem commitConstants_omega : (commitConstants k s).omega = s.omega := rfl
@[simp] theorem commitConstants_wm : (commitConstants k s).wm = k.wm := rfl
@[simp] theorem commitConstants_f : (commitConstants k s).f = s.f := rfl
@[simp] theorem commitConstants_cmdr : (commitConstants k s).cmdr = s.cmdr := rfl
@[simp] theorem commitConstants_busy : (commitConstants k s).busy = false := rfl
@[simp] theorem commitConstants_ready : (commitConstants k s).ready = true := rfl
@[simp] theorem commitConstants_fatal : (commitConstants k s).fatal = s.fatal := rfl
@[simp] theorem commitConstants_err : (commitConstants k s).err = s.err := rfl
@[simp] theorem commitConstants_pviol : (commitConstants k s).pviol = s.pviol := rfl
@[simp] theorem commitConstants_ecode : (commitConstants k s).ecode = s.ecode := rfl
@[simp] theorem commitConstants_ecmd : (commitConstants k s).ecmd = s.ecmd := rfl
@[simp] theorem commitConstants_script : (commitConstants k s).script = s.script := rfl
@[simp] theorem commitConstants_reads : (commitConstants k s).reads = s.reads := rfl
@[simp] theorem commitConstants_issued : (commitConstants k s).issued = s.issued := rfl
@[simp] theorem commitConstants_latency : (commitConstants k s).latency = s.latency := rfl
end commitConstantsFields

section resetEngineFields
variable (s : State)
@[simp] theorem resetEngine_inv : (resetEngine s).inv = 0 := rfl
@[simp] theorem resetEngine_r : (resetEngine s).r = 0 := rfl
@[simp] theorem resetEngine_r2 : (resetEngine s).r2 = 0 := rfl
@[simp] theorem resetEngine_omega : (resetEngine s).omega = 0 := rfl
@[simp] theorem resetEngine_wm : (resetEngine s).wm = 0 := rfl
@[simp] theorem resetEngine_f : (resetEngine s).f = Vector.replicate 16 0 := rfl
@[simp] theorem resetEngine_cmdr : (resetEngine s).cmdr = 0 := rfl
@[simp] theorem resetEngine_busy : (resetEngine s).busy = false := rfl
@[simp] theorem resetEngine_ready : (resetEngine s).ready = false := rfl
@[simp] theorem resetEngine_fatal : (resetEngine s).fatal = false := rfl
@[simp] theorem resetEngine_err : (resetEngine s).err = false := rfl
@[simp] theorem resetEngine_pviol : (resetEngine s).pviol = false := rfl
@[simp] theorem resetEngine_ecode : (resetEngine s).ecode = 0 := rfl
@[simp] theorem resetEngine_ecmd : (resetEngine s).ecmd = 0 := rfl
@[simp] theorem resetEngine_script : (resetEngine s).script = s.script := rfl
@[simp] theorem resetEngine_reads : (resetEngine s).reads = s.reads := rfl
@[simp] theorem resetEngine_issued : (resetEngine s).issued = s.issued := rfl
@[simp] theorem resetEngine_latency : (resetEngine s).latency = s.latency := rfl
end resetEngineFields

section latchCommandFields
variable (v : PortWord) (s : State)
@[simp] theorem latchCommand_inv : (latchCommand v s).inv = s.inv := rfl
@[simp] theorem latchCommand_r : (latchCommand v s).r = s.r := rfl
@[simp] theorem latchCommand_r2 : (latchCommand v s).r2 = s.r2 := rfl
@[simp] theorem latchCommand_omega : (latchCommand v s).omega = s.omega := rfl
@[simp] theorem latchCommand_wm : (latchCommand v s).wm = s.wm := rfl
@[simp] theorem latchCommand_f : (latchCommand v s).f = s.f := rfl
@[simp] theorem latchCommand_cmdr : (latchCommand v s).cmdr = v := rfl
@[simp] theorem latchCommand_busy : (latchCommand v s).busy = true := rfl
@[simp] theorem latchCommand_ready : (latchCommand v s).ready = s.ready := rfl
@[simp] theorem latchCommand_fatal : (latchCommand v s).fatal = s.fatal := rfl
@[simp] theorem latchCommand_err : (latchCommand v s).err = s.err := rfl
@[simp] theorem latchCommand_pviol : (latchCommand v s).pviol = s.pviol := rfl
@[simp] theorem latchCommand_ecode : (latchCommand v s).ecode = s.ecode := rfl
@[simp] theorem latchCommand_ecmd : (latchCommand v s).ecmd = s.ecmd := rfl
@[simp] theorem latchCommand_script : (latchCommand v s).script = s.script := rfl
@[simp] theorem latchCommand_reads : (latchCommand v s).reads = s.reads := rfl
@[simp] theorem latchCommand_issued : (latchCommand v s).issued = s.issued := rfl
@[simp] theorem latchCommand_latency : (latchCommand v s).latency = s.latency := rfl
end latchCommandFields

section dropWriteFields
variable (s : State)
@[simp] theorem dropWrite_inv : (dropWrite s).inv = s.inv := rfl
@[simp] theorem dropWrite_r : (dropWrite s).r = s.r := rfl
@[simp] theorem dropWrite_r2 : (dropWrite s).r2 = s.r2 := rfl
@[simp] theorem dropWrite_omega : (dropWrite s).omega = s.omega := rfl
@[simp] theorem dropWrite_wm : (dropWrite s).wm = s.wm := rfl
@[simp] theorem dropWrite_f : (dropWrite s).f = s.f := rfl
@[simp] theorem dropWrite_cmdr : (dropWrite s).cmdr = s.cmdr := rfl
@[simp] theorem dropWrite_busy : (dropWrite s).busy = s.busy := rfl
@[simp] theorem dropWrite_ready : (dropWrite s).ready = s.ready := rfl
@[simp] theorem dropWrite_fatal : (dropWrite s).fatal = s.fatal := rfl
@[simp] theorem dropWrite_err : (dropWrite s).err = s.err := rfl
@[simp] theorem dropWrite_pviol : (dropWrite s).pviol = true := rfl
@[simp] theorem dropWrite_ecode : (dropWrite s).ecode = s.ecode := rfl
@[simp] theorem dropWrite_ecmd : (dropWrite s).ecmd = s.ecmd := rfl
@[simp] theorem dropWrite_script : (dropWrite s).script = s.script := rfl
@[simp] theorem dropWrite_reads : (dropWrite s).reads = s.reads := rfl
@[simp] theorem dropWrite_issued : (dropWrite s).issued = s.issued := rfl
@[simp] theorem dropWrite_latency : (dropWrite s).latency = s.latency := rfl
end dropWriteFields

section chooseLatencyFields
variable (s : State)
@[simp] theorem chooseLatency_inv : (chooseLatency s).inv = s.inv := rfl
@[simp] theorem chooseLatency_r : (chooseLatency s).r = s.r := rfl
@[simp] theorem chooseLatency_r2 : (chooseLatency s).r2 = s.r2 := rfl
@[simp] theorem chooseLatency_omega : (chooseLatency s).omega = s.omega := rfl
@[simp] theorem chooseLatency_wm : (chooseLatency s).wm = s.wm := rfl
@[simp] theorem chooseLatency_f : (chooseLatency s).f = s.f := rfl
@[simp] theorem chooseLatency_cmdr : (chooseLatency s).cmdr = s.cmdr := rfl
@[simp] theorem chooseLatency_busy : (chooseLatency s).busy = s.busy := rfl
@[simp] theorem chooseLatency_ready : (chooseLatency s).ready = s.ready := rfl
@[simp] theorem chooseLatency_fatal : (chooseLatency s).fatal = s.fatal := rfl
@[simp] theorem chooseLatency_err : (chooseLatency s).err = s.err := rfl
@[simp] theorem chooseLatency_pviol : (chooseLatency s).pviol = s.pviol := rfl
@[simp] theorem chooseLatency_ecode : (chooseLatency s).ecode = s.ecode := rfl
@[simp] theorem chooseLatency_ecmd : (chooseLatency s).ecmd = s.ecmd := rfl
@[simp] theorem chooseLatency_script : (chooseLatency s).script = s.script := rfl
@[simp] theorem chooseLatency_reads : (chooseLatency s).reads = s.reads := rfl
@[simp] theorem chooseLatency_issued : (chooseLatency s).issued = s.issued + 1 := rfl
@[simp] theorem chooseLatency_latency : (chooseLatency s).latency = Config.latency s.issued := rfl
end chooseLatencyFields

section hostReadFields
variable (a : PortAddr) (s : State)
@[simp] theorem hostRead_inv : (hostRead a s).inv = s.inv := rfl
@[simp] theorem hostRead_r : (hostRead a s).r = s.r := rfl
@[simp] theorem hostRead_r2 : (hostRead a s).r2 = s.r2 := rfl
@[simp] theorem hostRead_omega : (hostRead a s).omega = s.omega := rfl
@[simp] theorem hostRead_wm : (hostRead a s).wm = s.wm := rfl
@[simp] theorem hostRead_f : (hostRead a s).f = s.f := rfl
@[simp] theorem hostRead_cmdr : (hostRead a s).cmdr = s.cmdr := rfl
@[simp] theorem hostRead_busy : (hostRead a s).busy = s.busy := rfl
@[simp] theorem hostRead_ready : (hostRead a s).ready = s.ready := rfl
@[simp] theorem hostRead_fatal : (hostRead a s).fatal = s.fatal := rfl
@[simp] theorem hostRead_err : (hostRead a s).err = s.err := rfl
@[simp] theorem hostRead_pviol : (hostRead a s).pviol = s.pviol := rfl
@[simp] theorem hostRead_ecode : (hostRead a s).ecode = s.ecode := rfl
@[simp] theorem hostRead_ecmd : (hostRead a s).ecmd = s.ecmd := rfl
@[simp] theorem hostRead_script : (hostRead a s).script = s.script := rfl
@[simp] theorem hostRead_reads : (hostRead a s).reads = s.reads ++ [(a, regRead a s)] := rfl
@[simp] theorem hostRead_issued : (hostRead a s).issued = s.issued := rfl
@[simp] theorem hostRead_latency : (hostRead a s).latency = s.latency := rfl
end hostReadFields

section advanceScriptFields
variable (rest : List Transaction) (s : State)
@[simp] theorem advanceScript_inv : (advanceScript rest s).inv = s.inv := rfl
@[simp] theorem advanceScript_r : (advanceScript rest s).r = s.r := rfl
@[simp] theorem advanceScript_r2 : (advanceScript rest s).r2 = s.r2 := rfl
@[simp] theorem advanceScript_omega : (advanceScript rest s).omega = s.omega := rfl
@[simp] theorem advanceScript_wm : (advanceScript rest s).wm = s.wm := rfl
@[simp] theorem advanceScript_f : (advanceScript rest s).f = s.f := rfl
@[simp] theorem advanceScript_cmdr : (advanceScript rest s).cmdr = s.cmdr := rfl
@[simp] theorem advanceScript_busy : (advanceScript rest s).busy = s.busy := rfl
@[simp] theorem advanceScript_ready : (advanceScript rest s).ready = s.ready := rfl
@[simp] theorem advanceScript_fatal : (advanceScript rest s).fatal = s.fatal := rfl
@[simp] theorem advanceScript_err : (advanceScript rest s).err = s.err := rfl
@[simp] theorem advanceScript_pviol : (advanceScript rest s).pviol = s.pviol := rfl
@[simp] theorem advanceScript_ecode : (advanceScript rest s).ecode = s.ecode := rfl
@[simp] theorem advanceScript_ecmd : (advanceScript rest s).ecmd = s.ecmd := rfl
@[simp] theorem advanceScript_script : (advanceScript rest s).script = rest := rfl
@[simp] theorem advanceScript_reads : (advanceScript rest s).reads = s.reads := rfl
@[simp] theorem advanceScript_issued : (advanceScript rest s).issued = s.issued := rfl
@[simp] theorem advanceScript_latency : (advanceScript rest s).latency = s.latency - 1 := rfl
end advanceScriptFields

section afterErrorFields
variable (s : State) (code : BitVec 8)
@[simp] theorem afterError_inv : (afterError s code).inv = s.inv := rfl
@[simp] theorem afterError_r : (afterError s code).r = s.r := rfl
@[simp] theorem afterError_r2 : (afterError s code).r2 = s.r2 := rfl
@[simp] theorem afterError_omega : (afterError s code).omega = s.omega := rfl
@[simp] theorem afterError_wm : (afterError s code).wm = s.wm := rfl
@[simp] theorem afterError_f : (afterError s code).f = s.f := rfl
@[simp] theorem afterError_cmdr : (afterError s code).cmdr = s.cmdr := rfl
@[simp] theorem afterError_busy : (afterError s code).busy = false := rfl
@[simp] theorem afterError_ready : (afterError s code).ready = s.ready := rfl
@[simp] theorem afterError_fatal : (afterError s code).fatal = s.fatal := rfl
@[simp] theorem afterError_err : (afterError s code).err = true := rfl
@[simp] theorem afterError_pviol : (afterError s code).pviol = s.pviol := rfl
@[simp] theorem afterError_ecode : (afterError s code).ecode = code := rfl
@[simp] theorem afterError_ecmd : (afterError s code).ecmd = s.cmdr := rfl
@[simp] theorem afterError_script : (afterError s code).script = s.script := rfl
@[simp] theorem afterError_reads : (afterError s code).reads = s.reads := rfl
@[simp] theorem afterError_issued : (afterError s code).issued = s.issued := rfl
@[simp] theorem afterError_latency : (afterError s code).latency = s.latency := rfl
end afterErrorFields

section afterFatalFields
variable (s : State)
@[simp] theorem afterFatal_inv : (afterFatal s).inv = s.inv := rfl
@[simp] theorem afterFatal_r : (afterFatal s).r = s.r := rfl
@[simp] theorem afterFatal_r2 : (afterFatal s).r2 = s.r2 := rfl
@[simp] theorem afterFatal_omega : (afterFatal s).omega = s.omega := rfl
@[simp] theorem afterFatal_wm : (afterFatal s).wm = s.wm := rfl
@[simp] theorem afterFatal_f : (afterFatal s).f = s.f := rfl
@[simp] theorem afterFatal_cmdr : (afterFatal s).cmdr = s.cmdr := rfl
@[simp] theorem afterFatal_busy : (afterFatal s).busy = false := rfl
@[simp] theorem afterFatal_ready : (afterFatal s).ready = s.ready := rfl
@[simp] theorem afterFatal_fatal : (afterFatal s).fatal = true := rfl
@[simp] theorem afterFatal_err : (afterFatal s).err = s.err := rfl
@[simp] theorem afterFatal_pviol : (afterFatal s).pviol = s.pviol := rfl
@[simp] theorem afterFatal_ecode : (afterFatal s).ecode = 8 := rfl
@[simp] theorem afterFatal_ecmd : (afterFatal s).ecmd = s.cmdr := rfl
@[simp] theorem afterFatal_script : (afterFatal s).script = s.script := rfl
@[simp] theorem afterFatal_reads : (afterFatal s).reads = s.reads := rfl
@[simp] theorem afterFatal_issued : (afterFatal s).issued = s.issued := rfl
@[simp] theorem afterFatal_latency : (afterFatal s).latency = s.latency := rfl
end afterFatalFields

section afterWriteFields
variable (s : State) (rd : Reg) (v : Elem)
@[simp] theorem afterWrite_inv : (afterWrite s rd v).inv = s.inv := rfl
@[simp] theorem afterWrite_r : (afterWrite s rd v).r = s.r := rfl
@[simp] theorem afterWrite_r2 : (afterWrite s rd v).r2 = s.r2 := rfl
@[simp] theorem afterWrite_omega : (afterWrite s rd v).omega = s.omega := rfl
@[simp] theorem afterWrite_wm : (afterWrite s rd v).wm = s.wm := rfl
@[simp] theorem afterWrite_f : (afterWrite s rd v).f = s.f.set rd v := rfl
@[simp] theorem afterWrite_cmdr : (afterWrite s rd v).cmdr = s.cmdr := rfl
@[simp] theorem afterWrite_busy : (afterWrite s rd v).busy = false := rfl
@[simp] theorem afterWrite_ready : (afterWrite s rd v).ready = s.ready := rfl
@[simp] theorem afterWrite_fatal : (afterWrite s rd v).fatal = s.fatal := rfl
@[simp] theorem afterWrite_err : (afterWrite s rd v).err = s.err := rfl
@[simp] theorem afterWrite_pviol : (afterWrite s rd v).pviol = s.pviol := rfl
@[simp] theorem afterWrite_ecode : (afterWrite s rd v).ecode = s.ecode := rfl
@[simp] theorem afterWrite_ecmd : (afterWrite s rd v).ecmd = s.ecmd := rfl
@[simp] theorem afterWrite_script : (afterWrite s rd v).script = s.script := rfl
@[simp] theorem afterWrite_reads : (afterWrite s rd v).reads = s.reads := rfl
@[simp] theorem afterWrite_issued : (afterWrite s rd v).issued = s.issued := rfl
@[simp] theorem afterWrite_latency : (afterWrite s rd v).latency = s.latency := rfl
end afterWriteFields

section acknowledgeFields
variable (s : State)
@[simp] theorem acknowledge_inv : (acknowledge s).inv = s.inv := by unfold acknowledge; split <;> simp_all
@[simp] theorem acknowledge_r : (acknowledge s).r = s.r := by unfold acknowledge; split <;> simp_all
@[simp] theorem acknowledge_r2 : (acknowledge s).r2 = s.r2 := by unfold acknowledge; split <;> simp_all
@[simp] theorem acknowledge_omega : (acknowledge s).omega = s.omega := by unfold acknowledge; split <;> simp_all
@[simp] theorem acknowledge_wm : (acknowledge s).wm = s.wm := by unfold acknowledge; split <;> simp_all
@[simp] theorem acknowledge_f : (acknowledge s).f = s.f := by unfold acknowledge; split <;> simp_all
@[simp] theorem acknowledge_cmdr : (acknowledge s).cmdr = s.cmdr := by unfold acknowledge; split <;> simp_all
@[simp] theorem acknowledge_busy : (acknowledge s).busy = s.busy := by unfold acknowledge; split <;> simp_all
@[simp] theorem acknowledge_ready : (acknowledge s).ready = s.ready := by unfold acknowledge; split <;> simp_all
@[simp] theorem acknowledge_fatal : (acknowledge s).fatal = s.fatal := by unfold acknowledge; split <;> simp_all
@[simp] theorem acknowledge_err : (acknowledge s).err = false := by unfold acknowledge; split <;> simp_all
@[simp] theorem acknowledge_pviol : (acknowledge s).pviol = s.pviol := by unfold acknowledge; split <;> simp_all
@[simp] theorem acknowledge_ecode : (acknowledge s).ecode = (if s.fatal then s.ecode else 0) := by unfold acknowledge; split <;> simp_all
@[simp] theorem acknowledge_ecmd : (acknowledge s).ecmd = (if s.fatal then s.ecmd else 0) := by unfold acknowledge; split <;> simp_all
@[simp] theorem acknowledge_script : (acknowledge s).script = s.script := by unfold acknowledge; split <;> simp_all
@[simp] theorem acknowledge_reads : (acknowledge s).reads = s.reads := by unfold acknowledge; split <;> simp_all
@[simp] theorem acknowledge_issued : (acknowledge s).issued = s.issued := by unfold acknowledge; split <;> simp_all
@[simp] theorem acknowledge_latency : (acknowledge s).latency = s.latency := by unfold acknowledge; split <;> simp_all
end acknowledgeFields

section writeStatusFields
variable (v : PortWord) (s : State)
@[simp] theorem writeStatus_inv : (writeStatus v s).inv = s.inv := by
  unfold writeStatus; cases v.getLsbD 3 <;> cases v.getLsbD 4 <;> cases h : s.fatal <;> simp [h]
@[simp] theorem writeStatus_r : (writeStatus v s).r = s.r := by
  unfold writeStatus; cases v.getLsbD 3 <;> cases v.getLsbD 4 <;> cases h : s.fatal <;> simp [h]
@[simp] theorem writeStatus_r2 : (writeStatus v s).r2 = s.r2 := by
  unfold writeStatus; cases v.getLsbD 3 <;> cases v.getLsbD 4 <;> cases h : s.fatal <;> simp [h]
@[simp] theorem writeStatus_omega : (writeStatus v s).omega = s.omega := by
  unfold writeStatus; cases v.getLsbD 3 <;> cases v.getLsbD 4 <;> cases h : s.fatal <;> simp [h]
@[simp] theorem writeStatus_wm : (writeStatus v s).wm = s.wm := by
  unfold writeStatus; cases v.getLsbD 3 <;> cases v.getLsbD 4 <;> cases h : s.fatal <;> simp [h]
@[simp] theorem writeStatus_f : (writeStatus v s).f = s.f := by
  unfold writeStatus; cases v.getLsbD 3 <;> cases v.getLsbD 4 <;> cases h : s.fatal <;> simp [h]
@[simp] theorem writeStatus_cmdr : (writeStatus v s).cmdr = s.cmdr := by
  unfold writeStatus; cases v.getLsbD 3 <;> cases v.getLsbD 4 <;> cases h : s.fatal <;> simp [h]
@[simp] theorem writeStatus_busy : (writeStatus v s).busy = s.busy := by
  unfold writeStatus; cases v.getLsbD 3 <;> cases v.getLsbD 4 <;> cases h : s.fatal <;> simp [h]
@[simp] theorem writeStatus_ready : (writeStatus v s).ready = s.ready := by
  unfold writeStatus; cases v.getLsbD 3 <;> cases v.getLsbD 4 <;> cases h : s.fatal <;> simp [h]
@[simp] theorem writeStatus_fatal : (writeStatus v s).fatal = s.fatal := by
  unfold writeStatus; cases v.getLsbD 3 <;> cases v.getLsbD 4 <;> cases h : s.fatal <;> simp [h]
@[simp] theorem writeStatus_err : (writeStatus v s).err = (s.err && !v.getLsbD 3) := by
  unfold writeStatus; cases v.getLsbD 3 <;> cases v.getLsbD 4 <;> cases h : s.fatal <;> simp [h]
@[simp] theorem writeStatus_pviol : (writeStatus v s).pviol = (s.pviol && !v.getLsbD 4) := by
  unfold writeStatus; cases v.getLsbD 3 <;> cases v.getLsbD 4 <;> cases h : s.fatal <;> simp [h]
@[simp] theorem writeStatus_ecode : (writeStatus v s).ecode = (if v.getLsbD 3 && !s.fatal then 0 else s.ecode) := by
  unfold writeStatus; cases v.getLsbD 3 <;> cases v.getLsbD 4 <;> cases h : s.fatal <;> simp [h]
@[simp] theorem writeStatus_ecmd : (writeStatus v s).ecmd = (if v.getLsbD 3 && !s.fatal then 0 else s.ecmd) := by
  unfold writeStatus; cases v.getLsbD 3 <;> cases v.getLsbD 4 <;> cases h : s.fatal <;> simp [h]
@[simp] theorem writeStatus_script : (writeStatus v s).script = s.script := by
  unfold writeStatus; cases v.getLsbD 3 <;> cases v.getLsbD 4 <;> cases h : s.fatal <;> simp [h]
@[simp] theorem writeStatus_reads : (writeStatus v s).reads = s.reads := by
  unfold writeStatus; cases v.getLsbD 3 <;> cases v.getLsbD 4 <;> cases h : s.fatal <;> simp [h]
@[simp] theorem writeStatus_issued : (writeStatus v s).issued = s.issued := by
  unfold writeStatus; cases v.getLsbD 3 <;> cases v.getLsbD 4 <;> cases h : s.fatal <;> simp [h]
@[simp] theorem writeStatus_latency : (writeStatus v s).latency = s.latency := by
  unfold writeStatus; cases v.getLsbD 3 <;> cases v.getLsbD 4 <;> cases h : s.fatal <;> simp [h]
end writeStatusFields

end Sys2Proof.Machine
end

