-- ==== Sys2Proof/Laws/Ops.lean ====
section
/-! SUPPORT. What each shared operation can do, said once: operand forms (R64), the frame of a command (R158, R163), the port
(R46), the host's turn and the step (R54, R158). -/

namespace Sys2Proof.Machine

theorem primeP_eq : Config.engine.p.toNat = primeP := rfl

/-- The operand check of the engine is reducedness (R9, R85). -/
theorem ltP_engine (x : Elem) : ltP Config.engine x = true ↔ Reduced x := by
  rw [ltP_iff, primeP_eq]

/-- The two spellings of a register read. -/
theorem get_eq_getElem (v : Vector Elem 16) (i : Reg) : v.get i = v[i.val] := rfl

@[simp] theorem get_set_same (f : Vector Elem 16) (i : Reg) (v : Elem) : (f.set i v).get i = v := by
  simp [get_eq_getElem]

theorem get_set_other (f : Vector Elem 16) (i j : Reg) (v : Elem) (h : i ≠ j) : (f.set i v).get j = f.get j := by
  have h' : i.val ≠ j.val := fun e => h (Fin.ext e)
  simp [get_eq_getElem, h']

@[simp] theorem readReg_writeReg_same (s : State) (i : Reg) (v : Elem) : readReg (writeReg s i v) i = v :=
  get_set_same _ _ _

theorem readReg_writeReg_other (s : State) (i j : Reg) (v : Elem) (h : i ≠ j) :
    readReg (writeReg s i v) j = readReg s j :=
  get_set_other _ _ _ _ h

/-- The form "Mont" of R64. -/
theorem readMont_of_reduced {s : State} {i : Reg} (h : Reduced (s.f.get i)) : readMont s i = .ok (s.f.get i) :=
  if_pos ((ltP_engine _).2 h)

theorem readMont_of_not_reduced {s : State} {i : Reg} (h : ¬Reduced (s.f.get i)) : readMont s i = .error .contract :=
  if_neg fun e => h ((ltP_engine _).1 e)

/-- The form "canon" of R64. -/
theorem readCanon_of_reduced {s : State} {i : Reg} (h : Reduced (s.f.get i)) : readCanon s i = .ok (s.f.get i) :=
  if_pos ((ltP_engine _).2 h)

theorem readCanon_of_not_reduced {s : State} {i : Reg} (h : ¬Reduced (s.f.get i)) : readCanon s i = .error .range :=
  if_neg fun e => h ((ltP_engine _).1 e)

/-- Trap entry is the state of R160. -/
theorem raise_eq (e : ErrorCode) (s : State) : raise e s = afterError s (errorCodeValue e) := rfl

/-- The fatal failure is the state of R161. -/
theorem raiseFatal_eq (s : State) : raiseFatal s = afterFatal s := rfl

/-- Normal completion is the state of R159. -/
theorem commit_eq (rd : Reg) (v : Elem) (s : State) : commit rd v s = afterWrite s rd v := rfl

/-- The frame of a command: E_NOTREADY, its own error, or its write (R158). -/
theorem runCommand_not_ready {rd : Reg} {body : State → Except ErrorCode Elem} {s : State} (h : s.ready = false) :
    runCommand rd body s = .next (afterError s 2) := by
  simp [runCommand, h, finish, raise_eq, errorCodeValue]

theorem runCommand_error {rd : Reg} {body : State → Except ErrorCode Elem} {s : State} {e : ErrorCode}
    (h : s.ready = true) (hb : body s = .error e) : runCommand rd body s = .next (afterError s (errorCodeValue e)) := by
  simp [runCommand, h, hb, finish, raise_eq]

theorem runCommand_ok {rd : Reg} {body : State → Except ErrorCode Elem} {s : State} {v : Elem}
    (h : s.ready = true) (hb : body s = .ok v) : runCommand rd body s = .next (afterWrite s rd v) := by
  simp [runCommand, h, hb, finish, commit_eq]

/-- Whatever its pseudocode, a command ends in an error or in one register write (R159, R160). -/
theorem runCommand_cases (rd : Reg) (body : State → Except ErrorCode Elem) (s : State) :
    (∃ e, runCommand rd body s = .next (afterError s (errorCodeValue e))) ∨
      ∃ v, s.ready = true ∧ body s = .ok v ∧ runCommand rd body s = .next (afterWrite s rd v) := by
  cases hr : s.ready with
  | false => exact .inl ⟨.notReady, runCommand_not_ready hr⟩
  | true =>
    cases hb : body s with
    | error e => exact .inl ⟨e, runCommand_error hr hb⟩
    | ok v => exact .inr ⟨v, rfl, rfl, runCommand_ok hr hb⟩

/-- INIT ends locked, with the constants, or fatally (R90, R94, R95, R96). -/
theorem execInit_cases (s : State) :
    (s.ready = true ∧ execInit s = .next (afterError s 3)) ∨
      (s.ready = false ∧ ∃ k, deriveConstants Config.engine s.omega = some k ∧
        execInit s = .next (commitConstants k s)) ∨
      (s.ready = false ∧ deriveConstants Config.engine s.omega = none ∧ execInit s = .next (afterFatal s)) := by
  cases hr : s.ready with
  | true => exact .inl ⟨rfl, by simp [execInit, hr, raise_eq, errorCodeValue]⟩
  | false =>
    cases hk : deriveConstants Config.engine s.omega with
    | some k => exact .inr (.inl ⟨rfl, k, rfl, by simp [execInit, hr, hk]⟩)
    | none => exact .inr (.inr ⟨rfl, rfl, by simp [execInit, hr, hk, raiseFatal_eq]⟩)

/-- An accepted write has the effect of its word, every other write only sets PVIOL (R46). -/
theorem regWrite_cases (a : PortAddr) (v : PortWord) (s : State) :
    (writeAccepted s (portReg a) = true ∧ regWrite a v s = applyWrite v s (portReg a)) ∨
      (writeAccepted s (portReg a) = false ∧ regWrite a v s = dropWrite s) := by
  cases h : writeAccepted s (portReg a) with
  | true => exact .inl ⟨rfl, by simp [regWrite, h]⟩
  | false => exact .inr ⟨rfl, by simp [regWrite, h]⟩

/-- A host write is the port's write, with a free latency where it latched a command (R48; log 2). -/
theorem hostWrite_cases (a : PortAddr) (v : PortWord) (s : State) :
    hostWrite a v s = regWrite a v s ∨
      ((regWrite a v s).busy = true ∧ s.busy = false ∧ hostWrite a v s = chooseLatency (regWrite a v s)) := by
  simp only [hostWrite, Bool.and_eq_true, Bool.not_eq_true']
  split
  · next h => exact .inr ⟨h.1, h.2, rfl⟩
  · exact .inl rfl

/-- The step is the ENGINE's `Execute` or the HOST's turn (R54). -/
theorem step_engine {s : State} (h : engineTurn s = true) : step s = execute s := if_pos h

theorem step_host {s : State} (h : engineTurn s = false) : step s = .next (hostTurn s) := by
  simp [step, machineStep, h]

/-- Whose turn it is: only a busy engine takes one (R14). -/
theorem engineTurn_busy {s : State} (h : engineTurn s = true) : s.busy = true := by
  simp only [engineTurn, Bool.and_eq_true] at h
  exact h.1

/-- `Execute` decodes the latched word (R158). -/
theorem execute_ok {s : State} {i : Instr} (h : decode s.cmdr = .ok i) : execute s = exec i s := by
  simp [execute, h]

theorem execute_error {s : State} {e : Illegal} (h : decode s.cmdr = .error e) :
    execute s = .next (afterError s 1) := by
  simp [execute, h, raise_eq, errorCodeValue]

/-- A phase is READY exactly when the flag says so and the machine is not FATAL (R175). -/
@[simp] theorem phase_fatal_iff (s : State) : phase s = .fatal ↔ s.fatal = true := by
  unfold phase; cases s.fatal <;> cases s.ready <;> simp

end Sys2Proof.Machine
end

