-- ==== Sys2Proof/Laws/PerInstr.lean ====
section
/-! SUPPORT. Statements for all instructions, one lemma per constructor. The family EncodedLegal: the CMD value of a command is
a legal one, that is, its word matches a row of the opcode map under the row's mask (R65, R66). -/

namespace Sys2Proof.Laws

/-- A format U word keeps its opcode byte and has `rb` and the high bits zero. -/
theorem encodeU_mask (op : Nat) (rd ra : Reg) (h : op < 2 ^ 8) :
    encodeU op rd ra &&& 0xFFFF00FF = BitVec.ofNat 32 op := by
  have key : ∀ rd ra : Reg, encodeU 0 rd ra &&& 0xFFFF00FF = 0#32 := by decide +kernel
  have hsum : encodeU op rd ra = BitVec.ofNat 32 op ||| encodeU 0 rd ra := by
    apply BitVec.eq_of_toNat_eq
    have hr := rd.isLt
    have ha := ra.isLt
    have e : 0 + rd.val * 2 ^ 8 + ra.val * 2 ^ 12 = 2 ^ 8 * (rd.val + ra.val * 2 ^ 4) := by omega
    simp only [encodeU, BitVec.toNat_or, BitVec.toNat_ofNat]
    rw [Nat.mod_eq_of_lt (by omega : op < 2 ^ 32), Nat.mod_eq_of_lt (by omega), Nat.mod_eq_of_lt (by omega), e,
      Nat.or_comm, ← Nat.two_pow_add_eq_or_of_lt h]
    omega
  have hop : BitVec.ofNat 32 op &&& 0xFFFF00FF = BitVec.ofNat 32 op := by
    have : ∀ o : Fin 256, BitVec.ofNat 32 o.val &&& 0xFFFF00FF = BitVec.ofNat 32 o.val := by decide +kernel
    exact this ⟨op, h⟩
  rw [hsum, BitVec.and_or_distrib_right, key, hop, BitVec.or_zero]

/-- A format T word keeps its opcode byte and has the high bits zero. -/
theorem encodeT_mask (op : Nat) (rd ra rb : Reg) (h : op < 2 ^ 8) :
    encodeT op rd ra rb &&& 0xFFF000FF = BitVec.ofNat 32 op := by
  have key : ∀ rb : Reg, BitVec.ofNat 32 (rb.val * 2 ^ 16) &&& 0xFFF000FF = 0#32 := by decide +kernel
  have hU : encodeU op rd ra &&& 0xFFF000FF = BitVec.ofNat 32 op := by
    have e := encodeU_mask op rd ra h
    have m : (0xFFF000FF : CmdWord) = 0xFFFF00FF &&& 0xFFF000FF := by decide
    rw [m, ← BitVec.and_assoc, e]
    have : ∀ o : Fin 256, BitVec.ofNat 32 o.val &&& 0xFFF000FF = BitVec.ofNat 32 o.val := by decide +kernel
    exact this ⟨op, h⟩
  have hsum : encodeT op rd ra rb = BitVec.ofNat 32 (rb.val * 2 ^ 16) ||| encodeU op rd ra := by
    apply BitVec.eq_of_toNat_eq
    have hr := rd.isLt
    have ha := ra.isLt
    have hb := rb.isLt
    simp only [encodeU, encodeT, BitVec.toNat_or, BitVec.toNat_ofNat]
    rw [Nat.mod_eq_of_lt (by omega), Nat.mod_eq_of_lt (by omega), Nat.mod_eq_of_lt (by omega),
      Nat.mul_comm rb.val, ← Nat.two_pow_add_eq_or_of_lt (by omega)]
    omega
  rw [hsum, BitVec.and_or_distrib_right, key, hU, BitVec.zero_or]

/-- A word that matches a row is a legal CMD value. -/
theorem legal_of_row {i : Instr} {row : OpRow} (hm : row ∈ opRows) (h : encode i &&& row.mask = row.pat) :
    legalCommand (cmdValue i) = true := by
  have hu : upperHalfZero (cmdValue i) = true := by
    have hw := (encode i).isLt
    simp only [upperHalfZero, cmdValue, beq_iff_eq]
    apply BitVec.eq_of_toNat_eq
    simp only [BitVec.extractLsb'_toNat, BitVec.toNat_setWidth, Nat.shiftRight_eq_div_pow]
    rw [show (0 : BitVec 32).toNat = 0 from rfl]
    omega
  have ht : matchesTable (cmdValue i) = true := by
    simp only [matchesTable, List.any_eq_true]
    refine ⟨row, hm, ?_⟩
    have e : (cmdValue i).setWidth 32 = encode i := by
      apply BitVec.eq_of_toNat_eq
      have hw := (encode i).isLt
      simp only [cmdValue, BitVec.toNat_setWidth]
      omega
    simp [OpRow.matchesWord, e, h]
  simp [legalCommand, hu, ht]

/-- The family: the command's CMD value is legal. -/
def EncodedLegal.Statement (i : Instr) : Prop := legalCommand (cmdValue i) = true

theorem EncodedLegal.init : EncodedLegal.Statement .init := by
  unfold EncodedLegal.Statement; decide

theorem EncodedLegal.fromcan (rd ra : Reg) : EncodedLegal.Statement (.fromcan rd ra) :=
  legal_of_row (row := ⟨"FROMCAN", 0x00000010, 0xFFFF00FF⟩) (by decide) (encodeU_mask _ _ _ (by decide))

theorem EncodedLegal.tocan (rd ra : Reg) : EncodedLegal.Statement (.tocan rd ra) :=
  legal_of_row (row := ⟨"TOCAN", 0x00000011, 0xFFFF00FF⟩) (by decide) (encodeU_mask _ _ _ (by decide))

theorem EncodedLegal.mmul (rd ra rb : Reg) : EncodedLegal.Statement (.mmul rd ra rb) :=
  legal_of_row (row := ⟨"MMUL", 0x00000020, 0xFFF000FF⟩) (by decide) (encodeT_mask _ _ _ _ (by decide))

theorem EncodedLegal.fadd (rd ra rb : Reg) : EncodedLegal.Statement (.fadd rd ra rb) :=
  legal_of_row (row := ⟨"FADD", 0x00000030, 0xFFF000FF⟩) (by decide) (encodeT_mask _ _ _ _ (by decide))

theorem EncodedLegal.fsub (rd ra rb : Reg) : EncodedLegal.Statement (.fsub rd ra rb) :=
  legal_of_row (row := ⟨"FSUB", 0x00000031, 0xFFF000FF⟩) (by decide) (encodeT_mask _ _ _ _ (by decide))

theorem EncodedLegal.fneg (rd ra : Reg) : EncodedLegal.Statement (.fneg rd ra) :=
  legal_of_row (row := ⟨"FNEG", 0x00000032, 0xFFFF00FF⟩) (by decide) (encodeU_mask _ _ _ (by decide))

theorem EncodedLegal.fpow (rd ra rb : Reg) : EncodedLegal.Statement (.fpow rd ra rb) :=
  legal_of_row (row := ⟨"FPOW", 0x00000040, 0xFFF000FF⟩) (by decide) (encodeT_mask _ _ _ _ (by decide))

theorem EncodedLegal.finv (rd ra : Reg) : EncodedLegal.Statement (.finv rd ra) :=
  legal_of_row (row := ⟨"FINV", 0x00000041, 0xFFFF00FF⟩) (by decide) (encodeU_mask _ _ _ (by decide))

theorem EncodedLegal.root (rd ra : Reg) : EncodedLegal.Statement (.root rd ra) :=
  legal_of_row (row := ⟨"ROOT", 0x00000050, 0xFFFF00FF⟩) (by decide) (encodeU_mask _ _ _ (by decide))

end Sys2Proof.Laws
end

