-- ==== Sys2Proof/Laws/Step.lean ====
section
/-! SUPPORT. What a step can do, said once: the four ends of a command (R158), the host's turn by the head of its script (R70),
the register map (R41). -/

namespace Sys2Proof.Machine

/-- The four ends of a command: a recoverable error with code 1 to 7, the write of its destination, INIT's commit, INIT's
fatal failure (R158 to R161). -/
theorem exec_cases (i : Instr) (s : State) :
    (∃ e, exec i s = .next (afterError s (errorCodeValue e))) ∨
      (∃ rd v, s.ready = true ∧ exec i s = .next (afterWrite s rd v)) ∨
      (∃ k, i = .init ∧ s.ready = false ∧ deriveConstants Config.engine s.omega = some k ∧
        exec i s = .next (commitConstants k s)) ∨
      (i = .init ∧ s.ready = false ∧ exec i s = .next (afterFatal s)) := by
  have plain : ∀ (rd : Reg) (body : State → Except ErrorCode Elem),
      (∃ e, runCommand rd body s = .next (afterError s (errorCodeValue e))) ∨
        ∃ rd' v, s.ready = true ∧ runCommand rd body s = .next (afterWrite s rd' v) := by
    intro rd body
    rcases runCommand_cases rd body s with ⟨e, h⟩ | ⟨v, hr, -, h⟩
    · exact .inl ⟨e, h⟩
    · exact .inr ⟨rd, v, hr, h⟩
  have lift : ∀ {P Q R T : Prop}, P ∨ Q → P ∨ Q ∨ R ∨ T := fun h => h.elim .inl (fun q => .inr (.inl q))
  cases i with
  | init =>
    rcases execInit_cases s with ⟨-, h⟩ | ⟨hr, k, hk, h⟩ | ⟨hr, -, h⟩
    · exact .inl ⟨.locked, h⟩
    · exact .inr (.inr (.inl ⟨k, rfl, hr, hk, h⟩))
    · exact .inr (.inr (.inr ⟨rfl, hr, h⟩))
  | fromcan rd ra =>
    simp only [exec, execFromcan]
    exact lift (plain rd _)
  | tocan rd ra =>
    simp only [exec, execTocan]
    exact lift (plain rd _)
  | mmul rd ra rb =>
    simp only [exec, execMmul]
    exact lift (plain rd _)
  | fadd rd ra rb =>
    simp only [exec, execFadd]
    exact lift (plain rd _)
  | fsub rd ra rb =>
    simp only [exec, execFsub]
    exact lift (plain rd _)
  | fneg rd ra =>
    simp only [exec, execFneg]
    exact lift (plain rd _)
  | fpow rd ra rb =>
    simp only [exec, execFpow]
    exact lift (plain rd _)
  | finv rd ra =>
    simp only [exec, execFinv]
    exact lift (plain rd _)
  | root rd ra =>
    simp only [exec, execRoot]
    exact lift (plain rd _)

section hostTurnByHead
variable {s : State} {rest : List Transaction}

theorem hostTurn_nil (h : s.script = []) : hostTurn s = s := by simp [hostTurn, h]

theorem hostTurn_read {a : PortAddr} (h : s.script = .read a :: rest) :
    hostTurn s = hostRead a (advanceScript rest s) := by simp [hostTurn, h]

theorem hostTurn_write {a : PortAddr} {v : PortWord} (h : s.script = .write a v :: rest) :
    hostTurn s = hostWrite a v (advanceScript rest s) := by simp [hostTurn, h]

theorem hostTurn_reset (h : s.script = .reset :: rest) :
    hostTurn s = resetEngine (advanceScript rest s) := by simp [hostTurn, h]

theorem hostTurn_wait_busy (h : s.script = .wait :: rest) (hb : s.busy = true) :
    hostTurn s = hostRead 0x01 (advanceScript (.wait :: rest) s) := by simp [hostTurn, h, hb]

theorem hostTurn_wait_idle (h : s.script = .wait :: rest) (hb : s.busy = false) :
    hostTurn s = hostRead 0x01 (advanceScript rest s) := by simp [hostTurn, h, hb]

end hostTurnByHead

/-- The addresses of the field registers (R41). -/
theorem portReg_fLo (i : Reg) : portReg (BitVec.ofNat 6 (0x20 + 2 * i.val)) = .fLo i := by
  revert i; decide

theorem portReg_fHi (i : Reg) : portReg (BitVec.ofNat 6 (0x21 + 2 * i.val)) = .fHi i := by
  revert i; decide

/-- A named register stands at its own address (R41). -/
theorem portReg_portAddr (n : PortReg) : portReg (portAddr n) = n := by
  cases n with
  | fLo i => exact portReg_fLo i
  | fHi i => exact portReg_fHi i
  | _ => decide

/-- `WAIT` is done exactly when the STATUS word just read has bit 0 = 0 (R70). -/
theorem statusWord_busy (s : State) : (statusWord s).getLsbD 0 = s.busy := by
  have h := s.ecode.isLt
  cases hb : s.busy <;> simp [statusWord, hb, BitVec.getLsbD, Nat.testBit_zero] <;> omega

end Sys2Proof.Machine
end

