-- ==== Sys2Proof/Tests/Slice0.lean ====
section
/-! SUPPORT. Tests: words, vectors and programs of 95_test_vectors.md (its section is named at each), the smoke tests of the
well-formedness check, and for every statement with hypotheses a witness that meets them. Expected values are the spec's. -/

namespace Sys2Proof.Tests

open Sys2Proof.Machine

/-! ### Helpers -/

/-- Example A of section 4: a base root. -/
def rootA : Elem := 0x4B0BDB2B04B32095BD3CD7636C890B7D

/-- The state after Boot (section 5), the registers that Boot sets and nothing else. -/
def ready : State :=
  { State.reset with
    inv := 0xFFFFFFFFFFFFFFFF, r := 0x00000FFFFFFFFFFFFFFFFFFFFFFFFFFF, r2 := 0x000FDFFFFEFFFFEFFFFEFFFFEFFFFF01
    omega := rootA, wm := 0x59A6B0243D4F233F34F71BEC0535B4D7, cmdr := 1, ready := true }

/-- A state with `F[1] = a` and `F[2] = b`. -/
def with12 (s : State) (a b : Elem) : State := writeReg (writeReg s 1 a) 2 b

/-- A register after a command, and the STATUS word, if a next state is answered. -/
def resultOf (r : Result) (d : Reg) : Option (Elem × PortWord) :=
  match r with
  | .next t => some (t.f.get d, regRead 0x01 t)
  | _ => none

/-- The state a result answers, or the reset state. -/
def nextOf (r : Result) : State :=
  match r with
  | .next t => t
  | _ => State.reset

/-! ### Well-formedness: the illegal values of section 2.8, one for each check -/

theorem smoke_upper_half : legalCommand 0x0000000100011120 = false := by decide
theorem smoke_opcode_zero : legalCommand 0x0000000000000000 = false := by decide
theorem smoke_opcode_reserved : legalCommand 0x00000000000000FF = false := by decide
theorem smoke_high_bits : legalCommand 0x0000000080000020 = false := by decide
theorem smoke_format_u_rb : legalCommand 0x0000000000011132 = false := by decide
theorem smoke_format_z_operands : legalCommand 0x0000000000000101 = false := by decide
theorem smoke_legal : legalCommand 0x0000000000021320 = true := by decide

/-- No two rows of the opcode map share a word (R65). -/
theorem opRows_disjoint :
    opRows.Pairwise fun a b => a.pat &&& (a.mask &&& b.mask) ≠ b.pat &&& (a.mask &&& b.mask) := by decide

/-! ### Decoding: words written out from R61 and R65 -/

theorem test_decode_init : decode 0x00000001 = .ok .init := by decide
theorem test_decode_fromcan : decode 0x00001110 = .ok (.fromcan 1 1) := by decide
theorem test_decode_tocan : decode 0x00003411 = .ok (.tocan 4 3) := by decide
theorem test_decode_mmul : decode 0x00021320 = .ok (.mmul 3 1 2) := by decide
theorem test_decode_fadd : decode 0x00021330 = .ok (.fadd 3 1 2) := by decide
theorem test_decode_fsub : decode 0x00021331 = .ok (.fsub 3 1 2) := by decide
theorem test_decode_fneg : decode 0x00001232 = .ok (.fneg 2 1) := by decide
theorem test_decode_fpow : decode 0x00021340 = .ok (.fpow 3 1 2) := by decide
theorem test_decode_finv : decode 0x00001241 = .ok (.finv 2 1) := by decide
theorem test_decode_root : decode 0x00007950 = .ok (.root 9 7) := by decide
theorem test_decode_bit20 : decode 0x0000000000111120 = .error .highBits := by decide
theorem test_decode_reserved : decode 0x0000000000000002 = .error .reservedOpcode := by decide
theorem test_table_word : decodeTableWord 32 0x000FFF20 = some (.mmul 15 15 15) := by decide
theorem test_encode_mmul : encode (.mmul 3 1 2) = 0x00021320 := by decide
theorem test_command_line : commandLine (.root 9 7) = "ROOT F9, F7" := by decide

/-! ### LimbOps and REDC (sections 2.1, 3.1, 3.2) -/

theorem test_mul64 : mul64 0xFFFFFFFFFFFFFFFA 0xFFFFF00000000000 = (0x0000600000000000, 0xFFFFEFFFFFFFFFFA) := by decide
theorem test_addc : addc 0xFFFFFFFFFFFFFFFF 0xFFFFFFFFFFFFFFFF true = (0xFFFFFFFFFFFFFFFF, true) := by decide
theorem test_subb : subb 0 0xFFFFFFFFFFFFFFFF true = (0, true) := by decide
theorem test_mac_maximum : mac 0xFFFFFFFFFFFFFFFF 0xFFFFFFFFFFFFFFFF 0xFFFFFFFFFFFFFFFF 0xFFFFFFFFFFFFFFFF
    = (0xFFFFFFFFFFFFFFFF, 0xFFFFFFFFFFFFFFFF) := by decide
theorem test_geP_borrow_and_top : geP Config.engine 0 0 true = true := by decide
theorem test_mulwide_max : mulwide 0xFFFFFFFFFFFFFFFFFFFFFFFFFFFFFFFF 0xFFFFFFFFFFFFFFFFFFFFFFFFFFFFFFFF
    = ⟨1, 0, 0xFFFFFFFFFFFFFFFE, 0xFFFFFFFFFFFFFFFF, 0⟩ := by decide
theorem test_round0 : redcRound0 Config.engine 0xFFFFFFFFFFFFFFFF
      ⟨0x6, 0xFFFF400000000000, 0xFFFFFFFFFFFFFFFF, 0x0000000005FFFFFF, 0⟩
    = ⟨0, 0xFFFFA00000000001, 0xFFFFEFFFFFFFFFF9, 0x0000000006000000, 0⟩ := by decide
theorem test_fifth_position : redcRounds Config.engine 0xFFFFFFFFFFFFFFFF
      ⟨0x4, 0xFFFF800000000000, 0x3, 0xFFFFC00004000000, 0⟩ = ⟨0, 0, 0, 0, 1⟩ := by decide
theorem test_neginv64_three : neginv64 3 = 0x5555555555555555 := by decide

/-! ### The commands, on the vectors of sections 2.2 to 2.7 -/

theorem test_init_accepts :
    let t := nextOf (exec .init { State.reset with omega := rootA })
    regRead 0x01 t = 0x0002 ∧ t.wm = 0x59A6B0243D4F233F34F71BEC0535B4D7 := by decide +kernel
theorem test_init_rejects :
    regRead 0x01 (nextOf (exec .init State.reset)) = 0x0804 ∧ resultOf (exec .init ready) 0 = some (0, 0x030A) := by
  decide +kernel
theorem test_fromcan : resultOf (exec (.fromcan 9 1) (with12 ready 6 0)) 9
    = some (0x00005FFFFFFFFFFFFFFFFFFFFFFFFFFA, 0x0002) := by decide +kernel
theorem test_fromcan_range : resultOf (exec (.fromcan 9 1) (with12 ready 0xFFFFF000000000000000000000000001 0)) 9
    = some (0, 0x040A) := by decide
theorem test_tocan : resultOf (exec (.tocan 9 1) (with12 ready 1 0)) 9
    = some (0xFFFFE000010000000000000000000000, 0x0002) := by decide +kernel
theorem test_tocan_contract : resultOf (exec (.tocan 9 1) (with12 ready 0xFFFFF000000000000000000000000001 0)) 9
    = some (0, 0x050A) := by decide
theorem test_mmul_above_2_128 : resultOf (exec (.mmul 9 1 2)
      (with12 ready 0xFFFFEFFE39E1E35BA57C10A8831E73AD 0xFFFFEFF1A267AEF9F8246D96D05180B4)) 9
    = some (0xD91C0E636F39DA394BA3980A042374A8, 0x0002) := by decide +kernel
theorem test_mmul_rb_contract : resultOf (exec (.mmul 9 1 2) (with12 ready 1 0xFFFFF000000000000000000000000001)) 9
    = some (0, 0x050A) := by decide
theorem test_fadd_carry_out : resultOf (exec (.fadd 9 1 2)
      (with12 ready 0x80000000000000000000000000000000 0x80000000000000000000000000000000)) 9
    = some (0x00000FFFFFFFFFFFFFFFFFFFFFFFFFFF, 0x0002) := by decide +kernel
theorem test_fadd_in_place : resultOf (exec (.fadd 1 1 1) (with12 ready 0x00001FFFFFFFFFFFFFFFFFFFFFFFFFFE 0)) 1
    = some (0x00003FFFFFFFFFFFFFFFFFFFFFFFFFFC, 0x0002) := by decide +kernel
theorem test_fsub_order : resultOf (exec (.fsub 9 1 2) (with12 ready 0 1)) 9
    = some (0xFFFFF000000000000000000000000000, 0x0002) := by decide +kernel
theorem test_fsub_limb_borrow : resultOf (exec (.fsub 9 1 2) (with12 ready 0x10000000000000000 1)) 9
    = some (0xFFFFFFFFFFFFFFFF, 0x0002) := by decide +kernel
theorem test_fneg_zero : resultOf (exec (.fneg 9 1) (with12 ready 0 0)) 9 = some (0, 0x0002) := by decide +kernel
theorem test_fneg_one : resultOf (exec (.fneg 9 1) (with12 ready 1 0)) 9
    = some (0xFFFFF000000000000000000000000000, 0x0002) := by decide +kernel
set_option maxRecDepth 100000 in
theorem test_fpow_ten : resultOf (exec (.fpow 9 1 2) (with12 ready 0x00001FFFFFFFFFFFFFFFFFFFFFFFFFFE 10)) 9
    = some (0x003FFFFFFFFFFFFFFFFFFFFFFFFFFC00, 0x0002) := by decide +kernel
set_option maxRecDepth 100000 in
theorem test_finv_three : resultOf (exec (.finv 9 1) (with12 ready 0x00002FFFFFFFFFFFFFFFFFFFFFFFFFFD 0)) 9
    = some (0x00000555555555555555555555555555, 0x0002) := by decide +kernel
theorem test_finv_zero : resultOf (exec (.finv 9 1) (with12 ready 0 0)) 9 = some (0, 0x060A) := by decide
set_option maxRecDepth 100000 in
theorem test_root_eight : resultOf (exec (.root 9 1) (with12 ready 8 0)) 9
    = some (0xC1D21045C9E3691B8DCF3C75C38150B0, 0x0002) := by decide +kernel
theorem test_root_bad_size : resultOf (exec (.root 9 1) (with12 ready 0x10000000000000000 0)) 9 = some (0, 0x070A) := by
  decide

/-! ### The port and the step (section 2.9) -/

theorem test_not_ready : regRead 0x01 (nextOf (step (State.reset.withFetchWord 32 0x1110))) = 0x0208 := by decide
theorem test_illegal_before_not_ready : regRead 0x01 (nextOf (step (State.reset.withFetchWord 32 0))) = 0x0108 := by decide
theorem test_ecmd : (nextOf (step (State.reset.withFetchWord 32 0x1110))).ecmd = 0x1110 := by decide
theorem test_dropped_while_err :
    regRead 0x01 (regWrite 0x00 0x241 { ready with err := true, ecode := 6, ecmd := 0x241 }) = 0x061A := by decide
theorem test_clear_both :
    regRead 0x01 (regWrite 0x01 0x18 { ready with err := true, pviol := true, ecode := 6, ecmd := 0x241 }) = 0x0002 := by
  decide
theorem test_fatal_keeps_record :
    regRead 0x01 (regWrite 0x01 0x18 { State.reset with fatal := true, pviol := true, ecode := 8, ecmd := 1 })
      = 0x0804 := by decide
theorem test_busy_drops_field_write :
    (regWrite 0x22 5 { State.reset with busy := true, cmdr := 1 }).f.get 1 = 0 := by decide
theorem test_write_f7_hi : ((regWrite 0x2F 9 ready).f.get 7) = 0x90000000000000000 := by decide
theorem test_reads_p : regRead 0x05 State.reset = 0xFFFFF00000000000 := by decide
theorem test_wait_polls_until_idle :
    ((Host.Core.run core 3 { State.reset with script := [.wait], busy := true, latency := 1, cmdr := 0 }) |> nextOf).reads
      = [(1, 1), (1, 0x0108)] := by decide

/-! ### The base root of example A meets R93 -/

theorem rootA_isBaseRoot : IsBaseRoot rootA := by
  refine ⟨by decide, ?_, ?_⟩
  · rw [← squareMod_mod]; decide +kernel
  · rw [← squareMod_mod]; decide +kernel

theorem ready_constants : ConstantsDerived ready :=
  ⟨fun h => absurd h (by decide), fun _ => ⟨by decide, by decide, by decide, by decide, rootA_isBaseRoot⟩⟩

theorem ready_flags : FlagsConsistent ready := by constructor <;> decide

theorem ready_invariant : EngineInvariant ready := ⟨ready_flags, ready_constants⟩

theorem zero_not_baseRoot : ¬IsBaseRoot 0 := by
  rintro ⟨-, h, -⟩
  rw [← squareMod_mod] at h
  exact absurd h (by decide +kernel)

/-- A state in phase FATAL (section 2.2: STATUS 0x0804, ECMD 1). -/
def fatalState : State := { State.reset with fatal := true, ecode := 8, ecmd := 1, cmdr := 1 }

theorem fatal_invariant : EngineInvariant fatalState :=
  ⟨by constructor <;> decide, ⟨fun _ => by decide, fun h => absurd h (by decide)⟩⟩

/-- INIT latched, the host about to poll (section 2.9). -/
def initLatched : State :=
  { State.reset with omega := rootA, cmdr := 1, busy := true, latency := 2, script := [.wait, .reset] }

theorem initLatched_invariant : EngineInvariant initLatched :=
  ⟨by constructor <;> decide, ⟨fun _ => by decide, fun h => absurd h (by decide)⟩⟩

/-- The largest reduced value and the smallest value that is not (R9). -/
def pMinusOne : Elem := 0xFFFFF000000000000000000000000000
def pItself : Elem := 0xFFFFF000000000000000000000000001

theorem boundary_reduced : Reduced pMinusOne ∧ ¬Reduced pItself := by decide

/-! ### Witnesses: every hypothesis of every statement is met together by a concrete state and operands -/

theorem ready_with12_constants (a b : Elem) : ConstantsDerived (with12 ready a b) :=
  ⟨fun h => absurd h (by simp [with12, ready]), fun _ => ready_constants.afterInit (by decide)⟩

theorem witness_EncodeOfDecodedValue : decode 0x000FFF20 = .ok (.mmul 15 15 15) := by decide

theorem witness_IllegalWordsExactly :
    (State.reset.cmdr = 0 ∧ decode 0 = .error .reservedOpcode) ∧ decode 0x100000000 = .error .upperHalf ∧
      decode 0x100020 = .error .highBits ∧ decode 0x10010 = .error .rbField ∧ decode 0x101 = .error .operandFields := by
  decide

theorem witness_StepRunsLatchedCommand :
    let s := { State.reset with busy := true, cmdr := 0x1110 }
    s.busy = true ∧ (s.latency = 0 ∨ s.script = []) ∧ decode s.cmdr = .ok (.fromcan 1 1) := by decide

theorem witness_FetchWordRunsNext : decodeTableWord 32 0x7950 = some (.root 9 7) := by decide

theorem witness_IllegalWordTakesError :
    let s := { State.reset with busy := true, cmdr := 0 }
    s.busy = true ∧ (s.latency = 0 ∨ s.script = []) ∧ decode s.cmdr = .error .reservedOpcode := by decide

theorem witness_ErrorsArePrecise :
    ready.err = false ∧ exec .init ready = .next (afterError ready 3) ∧ (afterError ready 3).err = true :=
  ⟨by decide, rfl, rfl⟩

theorem witness_CommandsBeforeInit : (Instr.fadd 1 2 3) ≠ .init ∧ State.reset.ready = false := by decide

theorem witness_InitCommand :
    ready.ready = true ∧ (initLatched.ready = false ∧ IsBaseRoot initLatched.omega) ∧
      (State.reset.ready = false ∧ ¬IsBaseRoot State.reset.omega) :=
  ⟨by decide, ⟨by decide, rootA_isBaseRoot⟩, by decide, zero_not_baseRoot⟩

/-- One witness for the clauses of a command with one checked source: before INIT, at p, at p − 1. -/
theorem witness_one_source :
    State.reset.ready = false ∧
      (let s := with12 ready pItself 0; s.ready = true ∧ ¬Reduced (s.f.get 1)) ∧
      (let s := with12 ready pMinusOne 0; s.ready = true ∧ Reduced (s.f.get 1) ∧ s.f.get 1 ≠ 0) := by decide

/-- The same with two checked sources, each of them at p once. -/
theorem witness_two_sources :
    State.reset.ready = false ∧
      (let s := with12 ready pItself 0; s.ready = true ∧ (¬Reduced (s.f.get 1) ∨ ¬Reduced (s.f.get 2))) ∧
      (let s := with12 ready 0 pItself; s.ready = true ∧ (¬Reduced (s.f.get 1) ∨ ¬Reduced (s.f.get 2))) ∧
      (let s := with12 ready pMinusOne pMinusOne; s.ready = true ∧ Reduced (s.f.get 1) ∧ Reduced (s.f.get 2)) := by
  decide

theorem witness_FromcanCommand : ConstantsDerived (with12 ready pMinusOne 0) ∧
    (with12 ready pMinusOne 0).ready = true ∧ Reduced ((with12 ready pMinusOne 0).f.get 1) :=
  ⟨ready_with12_constants _ _, by decide, by decide⟩

theorem witness_TocanCommand : ConstantsDerived (with12 ready 1 0) ∧
    (with12 ready 1 0).ready = true ∧ Reduced ((with12 ready 1 0).f.get 1) :=
  ⟨ready_with12_constants _ _, by decide, by decide⟩

theorem witness_MmulCommand : ConstantsDerived (with12 ready pMinusOne pMinusOne) ∧
    (with12 ready pMinusOne pMinusOne).ready = true ∧ Reduced ((with12 ready pMinusOne pMinusOne).f.get 1) ∧
    Reduced ((with12 ready pMinusOne pMinusOne).f.get 2) :=
  ⟨ready_with12_constants _ _, by decide, by decide, by decide⟩

theorem witness_FaddCommand : (with12 ready pMinusOne 1).ready = true ∧
    Reduced ((with12 ready pMinusOne 1).f.get 1) ∧ Reduced ((with12 ready pMinusOne 1).f.get 2) := by decide

theorem witness_FsubCommand : (with12 ready 0 pMinusOne).ready = true ∧
    Reduced ((with12 ready 0 pMinusOne).f.get 1) ∧ Reduced ((with12 ready 0 pMinusOne).f.get 2) := by decide

theorem witness_FnegCommand : (with12 ready 0 0).ready = true ∧ Reduced ((with12 ready 0 0).f.get 1) := by decide

/-- The exponent p is not reduced, and is no error (R137). -/
theorem witness_FpowCommand : ConstantsDerived (with12 ready pMinusOne pItself) ∧
    (with12 ready pMinusOne pItself).ready = true ∧ Reduced ((with12 ready pMinusOne pItself).f.get 1) :=
  ⟨ready_with12_constants _ _, by decide, by decide⟩

theorem witness_FinvCommand :
    (ready.ready = true ∧ ready.f.get 1 = 0) ∧ ConstantsDerived (with12 ready pMinusOne 0) ∧
      (with12 ready pMinusOne 0).ready = true ∧ Reduced ((with12 ready pMinusOne 0).f.get 1) ∧
      (with12 ready pMinusOne 0).f.get 1 ≠ 0 :=
  ⟨by decide, ready_with12_constants _ _, by decide, by decide, by decide⟩

theorem witness_RootCommand :
    (ready.ready = true ∧ ¬∃ k, k ≤ 32 ∧ (ready.f.get 1).toNat = 2 ^ k) ∧
      (32 ≤ 32 ∧ (with12 ready 0x100000000 0).ready = true ∧ ConstantsDerived (with12 ready 0x100000000 0) ∧
        ((with12 ready 0x100000000 0).f.get 1).toNat = 2 ^ 32) := by
  refine ⟨⟨by decide, ?_⟩, by decide, by decide, ready_with12_constants _ _, by decide⟩
  rintro ⟨k, -, h⟩
  have h0 : (ready.f.get 1).toNat = 0 := by decide
  have := Nat.two_pow_pos k
  omega

theorem witness_CommandsWriteReducedValues : ConstantsDerived ready ∧ ready.ready = true := ⟨ready_constants, by decide⟩

theorem witness_ReductionRoundsDropNoCarry :
    (Accumulator.mk 0xFFFFFFFFFFFFFFFF 0xFFFFFFFFFFFFFFFF 0xFFFFFFFFFFFFFFFF 0xFFFFFFFFFFFFFFFF 0).t4 = 0 := by decide

/-- The largest product of reduced operands, (p − 1)². -/
theorem witness_ReductionRoundsZeroTheirLimbs :
    loLimb Config.engine.p * invWord = 0xFFFFFFFFFFFFFFFF ∧ (mulwide pMinusOne pMinusOne).t4 = 0 ∧
      (mulwide pMinusOne pMinusOne).value < Config.engine.p.toNat * 2 ^ 128 := by decide +kernel

theorem witness_RedcIsMontgomeryReduction :
    (loLimb Config.engine.p * invWord = 0xFFFFFFFFFFFFFFFF ∧ (mulwide pMinusOne pMinusOne).t4 = 0 ∧
      (mulwide pMinusOne pMinusOne).value < Config.engine.p.toNat * 2 ^ 128) ∧
    (∃ n : Nat, n < 2 ^ 128 ∧ Config.engine.p.toNat * n % 2 ^ 128 = 2 ^ 128 - 1) ∧
    (mulwide pMinusOne pMinusOne).value < primeP * 2 ^ 128 ∧ Reduced pMinusOne :=
  ⟨witness_ReductionRoundsZeroTheirLimbs, ⟨2 ^ 128 - 2 ^ 108 - 1, by decide, by decide⟩,
    by decide +kernel, by decide⟩

theorem witness_MontmulAlgebra : Reduced 0 ∧ Reduced pMinusOne ∧ Reduced 1 := by decide

theorem witness_NeginvIsTheNegatedInverse :
    (1 : Limb).toNat % 2 = 1 ∧ (1 : Limb) * 0xFFFFFFFFFFFFFFFF = 0xFFFFFFFFFFFFFFFF ∧ (2 : Limb).toNat % 2 = 0 := by decide

theorem witness_AdderIsFormIndependent : 0 < primeP ∧ primeP - 1 < primeP := by decide

theorem witness_FpowLaws :
    Reduced pMinusOne ∧ (1 : Elem).toNat + (0xFFFFFFFFFFFFFFFFFFFFFFFFFFFFFFFE : Elem).toNat < 2 ^ 128 ∧
      (1 : Elem).toNat * (0xFFFFFFFFFFFFFFFFFFFFFFFFFFFFFFFF : Elem).toNat < 2 ^ 128 ∧ pMinusOne ≠ 0 ∧
      (0 : Elem).toNat % (primeP - 1) = pMinusOne.toNat % (primeP - 1) := by decide

theorem witness_FinvIsTheInverse :
    (with12 ready 1 0).ready = true ∧ ConstantsDerived (with12 ready 1 0) ∧ Reduced ((with12 ready 1 0).f.get 1) ∧
      (with12 ready 1 0).f.get 1 ≠ 0 :=
  ⟨by decide, ready_with12_constants _ _, by decide, by decide⟩

theorem witness_ConversionRoundTrips :
    (with12 ready pMinusOne 0).ready = true ∧ ConstantsDerived (with12 ready pMinusOne 0) ∧
      Reduced ((with12 ready pMinusOne 0).f.get 1) :=
  ⟨by decide, ready_with12_constants _ _, by decide⟩

theorem witness_RootsHaveExactOrder : IsBaseRoot rootA ∧ 0 ≤ 32 ∧ 1 ≤ 32 ∧ 32 ≤ 32 :=
  ⟨rootA_isBaseRoot, by decide, by decide, by decide⟩

theorem witness_ReadsOfTheRegisterMap :
    let s := { State.reset with script := [.read 0x3F] }
    engineTurn s = false ∧ s.script = .read 0x3F :: [] := by decide

theorem witness_AcceptedDataWrites :
    (fatalState.busy = false) ∧ State.reset.busy = false ∧ State.reset.ready = false ∧ State.reset.fatal = false := by
  decide

theorem witness_TwoLimbWritesInEitherOrder : ready.busy = false := by decide

theorem witness_AcceptedCommandWrite :
    State.reset.busy = false ∧ State.reset.err = false ∧ State.reset.fatal = false := by decide

theorem witness_AcknowledgeReopensTheEngine :
    let s := { ready with err := true, ecode := 6, ecmd := 0x241 }
    s.err = true ∧ s.fatal = false ∧ s.busy = false := by decide

/-- Each clause of R50 at the ends of its address ranges, and a write that is not dropped. -/
theorem witness_DroppedWritesExactly :
    regWrite 0x00 1 fatalState = { fatalState with pviol := true } ∧
      regWrite 0x20 1 initLatched = { initLatched with pviol := true } ∧
      regWrite 0x3F 1 initLatched = { initLatched with pviol := true } ∧
      regWrite 0x0D 1 ready = { ready with pviol := true } ∧
      regWrite 0x0F 1 ready = { ready with pviol := true } ∧
      regWrite 0x10 1 ready = { ready with pviol := true } ∧
      regWrite 0x1F 1 ready = { ready with pviol := true } ∧
      (regWrite 0x20 1 ready).pviol = false := by decide

theorem witness_ResetStep : engineTurn { initLatched with script := [.reset] } = false ∧
    { initLatched with script := [.reset] }.script = .reset :: [] := by decide

theorem witness_StepKeepsTheInvariant :
    EngineInvariant initLatched ∧ step initLatched = .next (hostTurn initLatched) :=
  ⟨initLatched_invariant, step_host (by decide)⟩

theorem witness_PhaseTransitions :
    EngineInvariant { initLatched with latency := 0 } ∧
      step { initLatched with latency := 0 } = exec .init { initLatched with latency := 0 } :=
  ⟨⟨by constructor <;> decide, ⟨fun _ => by decide, fun h => absurd h (by decide)⟩⟩,
    (step_engine (by decide)).trans (execute_ok (by decide))⟩

theorem ready_reset_not_next : ¬ResetIsNext ready := by
  rintro ⟨-, rest, h⟩
  exact absurd h (by simp [ready, State.reset])

theorem witness_ConstantsNeverChange :
    ready.ready = true ∧ ¬ResetIsNext ready ∧ step ready = .next ready :=
  ⟨by decide, ready_reset_not_next, step_host (s := ready) (by decide)⟩

theorem witness_FatalIsLeftOnlyByReset :
    EngineInvariant fatalState ∧ fatalState.fatal = true ∧ ¬ResetIsNext fatalState ∧
      step fatalState = .next fatalState :=
  ⟨fatal_invariant, by decide, fun ⟨_, rest, h⟩ => absurd h (by simp [fatalState, State.reset]),
    step_host (s := fatalState) (by decide)⟩

theorem witness_BusyFreezesTheOperands :
    initLatched.busy = true ∧ engineTurn initLatched = false ∧ ¬ResetIsNext initLatched ∧
      step initLatched = .next (hostTurn initLatched) :=
  ⟨by decide, by decide, fun ⟨_, rest, h⟩ => absurd h (by simp [initLatched]),
    step_host (by decide)⟩

/-- A WAIT that finds BUSY = 1, and one that finds BUSY = 0. -/
theorem witness_WaitEnds :
    (initLatched.busy = true ∧ initLatched.script = .wait :: [.reset]) ∧
      (let s := { ready with script := [.wait] }; s.busy = false ∧ s.script = .wait :: []) := by decide

/-- A write that latches a command, and one that is dropped while a command is latched. -/
theorem witness_WriteStepIsThePortWrite :
    (let s := { ready with script := [.write 0x00 0x1110] }
     engineTurn s = false ∧ s.script = .write 0x00 0x1110 :: [] ∧ s.busy = false ∧ s.err = false ∧ s.fatal = false) ∧
    (let s := { initLatched with script := [.write 0x00 0x1110] }
     engineTurn s = false ∧ s.script = .write 0x00 0x1110 :: [] ∧
       ¬((0x00 : PortAddr) = 0x00 ∧ s.busy = false ∧ s.err = false ∧ s.fatal = false)) := by decide

theorem witness_EndOfARun :
    initLatched.busy = true ∧ (EngineInvariant ready ∧ GoodEnd true ready) ∧ fatalState.fatal = true :=
  ⟨by decide, ⟨ready_invariant, by decide⟩, by decide⟩

/-- R199: a program that computes does not end well with READY = 0, whatever its flags; one that only reads may. -/
theorem test_goodEnd_needs_ready :
    ¬GoodEnd (programComputes [.write 0x00 0x1110, .wait, .write 0x01 0x8]) State.reset ∧
      GoodEnd (programComputes [.write 0x00 0x1, .read 0x01]) State.reset := by decide

theorem witness_EveryStepHasANextState : Finished State.reset := ⟨rfl, rfl⟩

end Sys2Proof.Tests
end

/-! The STATUS word read field by field (R13), and the values right after `RESET` (R31). -/

namespace Sys2Proof.Machine

/-- One bit of a word, as a number. -/
theorem getLsbD_eq_of_toNat {w i : Nat} {x : BitVec w} {b : Bool} (h : x.toNat / 2 ^ i % 2 = b.toNat) :
    x.getLsbD i = b := by
  rw [← BitVec.testBit_toNat, Nat.testBit_eq_decide_div_mod_eq, h]
  cases b <;> rfl

/-- A bit field of a word, as a number. -/
theorem extractLsb'_eq_of_toNat {w start len : Nat} {x : BitVec w} {v : BitVec len}
    (h : x.toNat / 2 ^ start % 2 ^ len = v.toNat) : x.extractLsb' start len = v := by
  apply BitVec.eq_of_toNat_eq
  rw [BitVec.extractLsb'_toNat, Nat.shiftRight_eq_div_pow, h]

/-- The bounds of the stored STATUS fields (R13): five flags and an 8-bit code. -/
theorem statusFields_lt (s : State) :
    s.busy.toNat < 2 ∧ s.ready.toNat < 2 ∧ s.fatal.toNat < 2 ∧ s.err.toNat < 2 ∧ s.pviol.toNat < 2 ∧
      s.ecode.toNat < 2 ^ 8 :=
  ⟨s.busy.toNat_lt, s.ready.toNat_lt, s.fatal.toNat_lt, s.err.toNat_lt, s.pviol.toNat_lt, s.ecode.isLt⟩

/-- The weighted sum of R45 does not wrap in the 64-bit port word. -/
theorem statusWord_toNat (s : State) :
    (statusWord s).toNat = s.busy.toNat + 2 * s.ready.toNat + 4 * s.fatal.toNat + 8 * s.err.toNat
      + 16 * s.pviol.toNat + 256 * s.ecode.toNat := by
  obtain ⟨hbusy, hready, hfatal, herr, hpviol, hecode⟩ := statusFields_lt s
  rw [statusWord, BitVec.toNat_ofNat]
  omega

/-- Address 0x01 is STATUS (R41, R45). -/
theorem regRead_status (s : State) : regRead 0x01 s = statusWord s := rfl

@[simp] theorem reset_f_get (i : Reg) : State.reset.f.get i = 0 := Vector.getElem_replicate _

/-- Settles O33: every weight of the STATUS sum is a power of two and the fields below it add up to less than the weight, so
dividing by the weight leaves the field in the low bits. -/
theorem statusLayout : Obligations.StatusLayout := by
  intro s
  have hsum := statusWord_toNat s
  obtain ⟨hbusy, hready, hfatal, herr, hpviol, hecode⟩ := statusFields_lt s
  rw [regRead_status]
  refine ⟨getLsbD_eq_of_toNat ?busy, getLsbD_eq_of_toNat ?ready, getLsbD_eq_of_toNat ?fatal, getLsbD_eq_of_toNat ?err,
    getLsbD_eq_of_toNat ?pviol, extractLsb'_eq_of_toNat ?reservedLow, extractLsb'_eq_of_toNat ?ecode,
    extractLsb'_eq_of_toNat ?reservedHigh⟩
  case reservedLow | reservedHigh => rw [BitVec.ofNat_eq_ofNat, BitVec.toNat_zero]; omega
  all_goals omega

/-- Settles O41: each field of `State.reset` is 0 by definition, and P is a constant of the engine (R20). -/
theorem resetValues : Obligations.ResetValues :=
  ⟨rfl, rfl, rfl, rfl, rfl, reset_f_get, rfl, rfl, rfl, rfl, rfl, rfl, rfl, rfl, primeP_eq⟩

end Sys2Proof.Machine

/-! ### The register port and the host's steps (20_memory.md)

First the port: the register map read backwards (R41), one equation per kind of write (R47 to R50), what a write may change.
Then the obligations of the port, and those of the step. -/

namespace Sys2Proof.Machine

/-! #### The register map -/

/-- A word that is not reserved stands at its own address only (R41). -/
theorem portAddr_portReg (a : PortAddr) (h : portReg a ≠ .reserved) : portAddr (portReg a) = a := by
  revert a; decide

theorem eq_portAddr_of_portReg {a : PortAddr} {n : PortReg} (h : portReg a = n) (hn : n ≠ .reserved) :
    a = portAddr n := by
  subst h
  exact (portAddr_portReg a hn).symm

theorem portReg_eq_cmd_iff (a : PortAddr) : portReg a = .cmd ↔ a = 0x00 :=
  ⟨fun h => eq_portAddr_of_portReg h (by decide), fun h => h ▸ rfl⟩

/-- The reserved words (R41). -/
theorem portReg_eq_reserved_iff (a : PortAddr) :
    portReg a = .reserved ↔ a.toNat = 0x03 ∨ a.toNat = 0x07 ∨ (0x10 ≤ a.toNat ∧ a.toNat ≤ 0x1F) := by
  revert a; decide

/-! #### Reads -/

theorem regRead_fLo (s : State) (i : Reg) :
    regRead (BitVec.ofNat 6 (0x20 + 2 * i.val)) s = loLimb (readReg s i) := by
  rw [regRead, portReg_fLo, readWord]

theorem regRead_fHi (s : State) (i : Reg) :
    regRead (BitVec.ofNat 6 (0x21 + 2 * i.val)) s = hiLimb (readReg s i) := by
  rw [regRead, portReg_fHi, readWord]

theorem regRead_reserved (s : State) {a : PortAddr} (h : portReg a = .reserved) : regRead a s = 0 := by
  rw [regRead, h, readWord]

/-- The port shows nothing of the host's side. -/
@[simp] theorem regRead_advanceScript (a : PortAddr) (rest : List Transaction) (s : State) :
    regRead a (advanceScript rest s) = regRead a s := by
  unfold regRead
  cases portReg a <;> rfl

/-! #### Writes -/

theorem regWrite_of_accepted {a : PortAddr} {v : PortWord} {s : State} {n : PortReg} (hn : portReg a = n)
    (h : writeAccepted s n = true) : regWrite a v s = applyWrite v s n := by
  rw [regWrite, hn, if_pos h]

theorem regWrite_of_not_accepted {a : PortAddr} {v : PortWord} {s : State} (h : writeAccepted s (portReg a) = false) :
    regWrite a v s = dropWrite s := by
  simp [regWrite, h]

section acceptedWrites
variable {s : State}

/-- A field register is written in every phase, whatever ERR is (R47). -/
theorem regWrite_fLo (i : Reg) (v : PortWord) (h : s.busy = false) :
    regWrite (BitVec.ofNat 6 (0x20 + 2 * i.val)) v s = writeReg s i (setLo (readReg s i) v) :=
  regWrite_of_accepted (portReg_fLo i) (by simp [writeAccepted, h])

theorem regWrite_fHi (i : Reg) (v : PortWord) (h : s.busy = false) :
    regWrite (BitVec.ofNat 6 (0x21 + 2 * i.val)) v s = writeReg s i (setHi (readReg s i) v) :=
  regWrite_of_accepted (portReg_fHi i) (by simp [writeAccepted, h])

/-- OMEGA is written in phase UNINIT only (R47). -/
theorem regWrite_omegaLo (v : PortWord) (hbusy : s.busy = false) (hready : s.ready = false) (hfatal : s.fatal = false) :
    regWrite 0x0C v s = { s with omega := setLo s.omega v } :=
  regWrite_of_accepted (n := .omegaLo) rfl (by simp [writeAccepted, hbusy, hready, hfatal])

theorem regWrite_omegaHi (v : PortWord) (hbusy : s.busy = false) (hready : s.ready = false) (hfatal : s.fatal = false) :
    regWrite 0x0D v s = { s with omega := setHi s.omega v } :=
  regWrite_of_accepted (n := .omegaHi) rfl (by simp [writeAccepted, hbusy, hready, hfatal])

/-- CMD is written when nothing is latched and nothing is recorded; READY is no part of it (R48). -/
theorem regWrite_cmd (v : PortWord) (hbusy : s.busy = false) (herr : s.err = false) (hfatal : s.fatal = false) :
    regWrite 0x00 v s = latchCommand v s :=
  regWrite_of_accepted (n := .cmd) rfl (by simp [writeAccepted, hbusy, herr, hfatal])

end acceptedWrites

theorem regWrite_status (v : PortWord) (s : State) : regWrite 0x01 v s = writeStatus v s := rfl

/-- The acknowledge under a condition, as one record update: it clears ERR, and the record of the error unless FATAL holds it
(R49, R173). -/
theorem acknowledge_if (ack : Bool) (s : State) :
    (if ack then acknowledge s else s) = { s with
      err := s.err && !ack
      ecode := if ack = true ∧ s.fatal = false then 0 else s.ecode
      ecmd := if ack = true ∧ s.fatal = false then 0 else s.ecmd } := by
  cases ack with
  | false => simp
  | true => cases hfatal : s.fatal <;> simp [acknowledge, hfatal]

theorem clearPviol_if (clear : Bool) (s : State) :
    (if clear then { s with pviol := false } else s) = { s with pviol := s.pviol && !clear } := by
  cases clear <;> simp

/-- The cases (a) to (e) of R50, by address and flags. -/
def WriteDropped (a : PortAddr) (s : State) : Prop :=
  (a = 0x00 ∧ (s.busy = true ∨ s.err = true ∨ s.fatal = true)) ∨
  (0x20 ≤ a.toNat ∧ s.busy = true) ∨
  ((a = 0x0C ∨ a = 0x0D) ∧ (s.busy = true ∨ s.ready = true ∨ s.fatal = true)) ∨
  a.toNat ∈ [0x02, 0x04, 0x05, 0x06, 0x08, 0x09, 0x0A, 0x0B, 0x0E, 0x0F] ∨
  (a.toNat = 0x03 ∨ a.toNat = 0x07 ∨ (0x10 ≤ a.toNat ∧ a.toNat ≤ 0x1F))

theorem portAddr_fLo_toNat (i : Reg) : (portAddr (.fLo i)).toNat = 0x20 + 2 * i.val := by
  rw [portAddr, BitVec.toNat_ofNat]; omega

theorem portAddr_fHi_toNat (i : Reg) : (portAddr (.fHi i)).toNat = 0x21 + 2 * i.val := by
  rw [portAddr, BitVec.toNat_ofNat]; omega

/-- At a field register only clause (b) of R50 speaks. -/
theorem writeDropped_field_iff {a : PortAddr} (s : State) (h : 0x20 ≤ a.toNat) :
    WriteDropped a s ↔ s.busy = true := by
  have hne : ∀ b : PortAddr, b.toNat < 0x20 → a ≠ b := fun b hb e => by subst e; omega
  have h00 := hne 0x00 (by decide)
  have h0C := hne 0x0C (by decide)
  have h0D := hne 0x0D (by decide)
  have hreadOnly : a.toNat ∉ [0x02, 0x04, 0x05, 0x06, 0x08, 0x09, 0x0A, 0x0B, 0x0E, 0x0F] := by
    simp only [List.mem_cons, List.not_mem_nil, or_false]
    omega
  have hreserved : ¬(a.toNat = 0x03 ∨ a.toNat = 0x07 ∨ (0x10 ≤ a.toNat ∧ a.toNat ≤ 0x1F)) := by omega
  simp only [WriteDropped, h00, h0C, h0D, hreadOnly, hreserved, h, true_and, false_and, or_false, false_or]

/-- The write condition of the register map refuses exactly the cases of R50: the address of each word is known, so the clause
that speaks of it is. -/
theorem writeAccepted_eq_false_iff (a : PortAddr) (s : State) :
    writeAccepted s (portReg a) = false ↔ WriteDropped a s := by
  cases hn : portReg a with
  | reserved => simp [writeAccepted, WriteDropped, (portReg_eq_reserved_iff a).1 hn]
  | fLo i =>
    rw [eq_portAddr_of_portReg hn (by simp), writeDropped_field_iff s (by rw [portAddr_fLo_toNat]; omega)]
    simp [writeAccepted]
  | fHi i =>
    rw [eq_portAddr_of_portReg hn (by simp), writeDropped_field_iff s (by rw [portAddr_fHi_toNat]; omega)]
    simp [writeAccepted]
  | cmd | omegaLo | omegaHi =>
    rw [eq_portAddr_of_portReg hn (by decide)]
    simp [writeAccepted, WriteDropped, portAddr, or_assoc, imp_iff_not_or]
  | _ =>
    rw [eq_portAddr_of_portReg hn (by decide)]
    simp [writeAccepted, WriteDropped, portAddr]

/-- No accepted write sets PVIOL (R47 to R49). -/
theorem applyWrite_keeps_pviol_clear (v : PortWord) {s : State} (n : PortReg) (h : s.pviol = false) :
    (applyWrite v s n).pviol = false := by
  cases n <;> simp [applyWrite, h]

/-- Only a write to CMD touches BUSY. -/
theorem applyWrite_busy (v : PortWord) (s : State) {n : PortReg} (h : n ≠ .cmd) :
    (applyWrite v s n).busy = s.busy := by
  cases n <;> simp_all [applyWrite]

/-- The port knows nothing of the host's count of commands (log 2). -/
@[simp] theorem regWrite_issued (a : PortAddr) (v : PortWord) (s : State) : (regWrite a v s).issued = s.issued := by
  rcases regWrite_cases a v s with ⟨-, heq⟩ | ⟨-, heq⟩ <;> rw [heq]
  · cases portReg a <;> simp [applyWrite]
  · exact dropWrite_issued s

/-- A write raises BUSY exactly when it latched a command (R48). -/
theorem regWrite_latches_iff (a : PortAddr) (v : PortWord) (s : State) :
    ((regWrite a v s).busy = true ∧ s.busy = false) ↔
      (a = 0x00 ∧ s.busy = false ∧ s.err = false ∧ s.fatal = false) := by
  constructor
  · rintro ⟨hraised, hbusy⟩
    rcases regWrite_cases a v s with ⟨haccepted, heq⟩ | ⟨-, heq⟩
    · have hcmd : portReg a = .cmd := by
        by_contra hother
        rw [heq, applyWrite_busy v s hother, hbusy] at hraised
        contradiction
      rw [hcmd] at haccepted
      simp only [writeAccepted, Bool.and_eq_true, Bool.not_eq_true'] at haccepted
      obtain ⟨⟨-, herr⟩, hfatal⟩ := haccepted
      exact ⟨(portReg_eq_cmd_iff a).1 hcmd, hbusy, herr, hfatal⟩
    · rw [heq, dropWrite_busy, hbusy] at hraised
      contradiction
  · rintro ⟨rfl, hbusy, herr, hfatal⟩
    rw [regWrite_cmd v hbusy herr hfatal]
    exact ⟨rfl, hbusy⟩

/-! #### Limbs -/

@[simp] theorem setHi_setLo (x : Elem) (lo hi : Limb) : setHi (setLo x lo) hi = ofLimbs lo hi := by
  simp [setHi, setLo]

@[simp] theorem setLo_setHi (x : Elem) (lo hi : Limb) : setLo (setHi x hi) lo = ofLimbs lo hi := by
  simp [setHi, setLo]

theorem ofLimbs_eq_ofNat (lo hi : Limb) : ofLimbs lo hi = BitVec.ofNat 128 (lo.toNat + hi.toNat * 2 ^ 64) := by
  apply BitVec.eq_of_toNat_eq
  rw [ofLimbs_toNat, BitVec.toNat_ofNat]
  omega

/-- The last write of a register counts. -/
@[simp] theorem writeReg_writeReg_same (s : State) (i : Reg) (u v : Elem) :
    writeReg (writeReg s i u) i v = writeReg s i v := by
  simp [writeReg]

/-! #### The obligations of the port -/

/-- Settles O36: the second write replaces the limb that the first one kept, so the old value of the register is gone. -/
theorem twoLimbWritesInEitherOrder : Obligations.TwoLimbWritesInEitherOrder := by
  intro s i lo hi hbusy
  rw [← ofLimbs_eq_ofNat]
  constructor
  · rw [regWrite_fLo i lo hbusy, regWrite_fHi (s := writeReg s i _) i hi hbusy, readReg_writeReg_same,
      writeReg_writeReg_same, setHi_setLo]
    rfl
  · rw [regWrite_fHi i hi hbusy, regWrite_fLo (s := writeReg s i _) i lo hbusy, readReg_writeReg_same,
      writeReg_writeReg_same, setLo_setHi]
    rfl

/-- Settles O40, by the write condition of the register map. -/
theorem droppedWritesExactly : Obligations.DroppedWritesExactly := by
  intro a v s
  change (WriteDropped a s → _) ∧ (¬WriteDropped a s → _)
  rw [← writeAccepted_eq_false_iff]
  constructor
  · intro hdropped
    exact regWrite_of_not_accepted hdropped
  · intro haccepted hpviol
    rw [regWrite_of_accepted rfl (Bool.eq_true_of_not_eq_false haccepted)]
    exact applyWrite_keeps_pviol_clear v _ hpviol

/-- Settles O34: the fixed addresses by evaluating the map, the sixteen field registers and the reserved ranges by their
lemmas. -/
theorem readsOfTheRegisterMap : Obligations.ReadsOfTheRegisterMap := by
  intro s
  refine ⟨rfl, rfl, rfl, rfl, rfl, rfl, rfl, rfl, rfl, rfl, rfl, rfl, rfl, rfl, ?field, ?reserved, ?readStep⟩
  case field => exact fun i => ⟨regRead_fLo s i, regRead_fHi s i⟩
  case reserved =>
    intro a ha
    have hnat : a.toNat = 0x03 ∨ a.toNat = 0x07 ∨ (0x10 ≤ a.toNat ∧ a.toNat ≤ 0x1F) :=
      ha.imp (congrArg BitVec.toNat) (Or.imp_left (congrArg BitVec.toNat))
    exact regRead_reserved s ((portReg_eq_reserved_iff a).2 hnat)
  case readStep =>
    intro a rest hturn hscript
    rw [step_host hturn, hostTurn_read hscript, hostRead, regRead_advanceScript]
    rfl

/-- Settles O35: an accepted data write replaces one limb (R47). -/
theorem acceptedDataWrites : Obligations.AcceptedDataWrites := by
  intro s v hbusy
  exact ⟨fun i => ⟨regWrite_fLo i v hbusy, regWrite_fHi i v hbusy⟩,
    fun hready hfatal => ⟨regWrite_omegaLo v hbusy hready hfatal, regWrite_omegaHi v hbusy hready hfatal⟩⟩

/-- Settles O37: the accepted write is `latchCommand`, which is the stated state. -/
theorem acceptedCommandWrite : Obligations.AcceptedCommandWrite := by
  intro s v hbusy herr hfatal
  exact regWrite_cmd v hbusy herr hfatal

/-- Settles O38: bit 3 and FATAL decide what the acknowledge clears, bit 4 decides PVIOL. -/
theorem statusWriteAcknowledges : Obligations.StatusWriteAcknowledges := by
  intro s v
  rw [regWrite_status]
  simp only [writeStatus]
  rw [clearPviol_if, acknowledge_if]

/-! #### The obligations of the step -/

/-- `Execute` always answers a next state, whatever word is latched (R158). -/
theorem execute_next (s : State) : ∃ t, execute s = .next t := by
  cases hword : decode s.cmdr with
  | error e => exact ⟨_, execute_error hword⟩
  | ok i =>
    rw [execute_ok hword]
    rcases exec_cases i s with ⟨e, h⟩ | ⟨rd, v, -, h⟩ | ⟨k, -, -, -, h⟩ | ⟨-, -, h⟩
    all_goals exact ⟨_, h⟩

/-- A finished machine idles (log 3). -/
theorem step_finished {s : State} (h : Finished s) : step s = .next s := by
  obtain ⟨hscript, hbusy⟩ := h
  have hturn : engineTurn s = false := by simp [engineTurn, hbusy]
  rw [step_host hturn, hostTurn_nil hscript]

/-- Settles O50: the ENGINE's step has a next state by `execute_next`, the HOST's by definition. -/
theorem everyStepHasANextState : Obligations.EveryStepHasANextState := by
  intro s
  have hnext : ∃ t, step s = .next t := by
    cases hturn : engineTurn s with
    | true => rw [step_engine hturn]; exact execute_next s
    | false => exact ⟨_, step_host hturn⟩
  obtain ⟨t, ht⟩ := hnext
  refine ⟨t, ht, fun hfinished => ?_⟩
  rw [step_finished hfinished] at ht
  exact (Host.Outcome.next.inj ht).symm

/-- A `WR` that latched a command chooses the next free latency (log 2). -/
theorem hostWrite_of_latched {a : PortAddr} {v : PortWord} {s : State}
    (h : (regWrite a v s).busy = true ∧ s.busy = false) : hostWrite a v s = chooseLatency (regWrite a v s) := by
  simp [hostWrite, h]

theorem hostWrite_of_not_latched {a : PortAddr} {v : PortWord} {s : State}
    (h : ¬((regWrite a v s).busy = true ∧ s.busy = false)) : hostWrite a v s = regWrite a v s := by
  rcases hostWrite_cases a v s with heq | ⟨hraised, hidle, -⟩
  · exact heq
  · exact absurd ⟨hraised, hidle⟩ h

/-- Settles O51: the port's write happens on the state with the script advanced, and `regWrite_latches_iff` says when a latency
is chosen. -/
theorem writeStepIsThePortWrite : Obligations.WriteStepIsThePortWrite := by
  intro s a v rest hturn hscript
  rw [step_host hturn, hostTurn_write hscript]
  have hlatches := regWrite_latches_iff a v (advanceScript rest s)
  refine ⟨fun hcond => ?latched, fun hcond => ?plain⟩
  case latched =>
    rw [hostWrite_of_latched (hlatches.2 hcond), chooseLatency, regWrite_issued]
    rfl
  case plain =>
    rw [hostWrite_of_not_latched (fun h => hcond (hlatches.1 h))]
    rfl

theorem decode_of_decodeTableWord {nbits w : Nat} {i : Instr} (h : decodeTableWord nbits w = some i) :
    decode (tableWordValue nbits w) = .ok i := by
  unfold decodeTableWord at h
  split at h
  · next j hj => rw [hj, Option.some.inj h]
  · contradiction

/-- The word stands latched with no host step to wait for, so the turn is the ENGINE's (log 1). -/
theorem engineTurn_withFetchWord (s : State) (nbits w : Nat) : engineTurn (s.withFetchWord nbits w) = true := rfl

/-- Settles O6: the latched word is the table word, and the decoder reads the command from it. -/
theorem fetchWordRunsNext : Obligations.FetchWordRunsNext := by
  intro s w i hword
  refine ⟨rfl, ?_⟩
  rw [step_engine (engineTurn_withFetchWord s 32 w)]
  exact execute_ok (decode_of_decodeTableWord hword)

end Sys2Proof.Machine

/-! ### The command words (30_encoding.md)

A command value is four fields under twelve zero bits and a zero upper half (R60, R62). The encoder and the decoder are each
tied to those fields once: a value is the CMD value of a command exactly when it decodes to it. -/

namespace Sys2Proof.Machine

/-! #### The fields of a word -/

/-- The four fields of a command word (R62). -/
structure WordFields where
  op : BitVec 8
  rd : Reg
  ra : Reg
  rb : Reg

/-- The fields of a latched value (R62). -/
def fieldsOf (c : PortWord) : WordFields := ⟨opField c, rdField c, raField c, rbField c⟩

/-- The value with these fields and nothing above them (R68). -/
def WordFields.value (f : WordFields) : PortWord :=
  BitVec.ofNat 64 (f.op.toNat + f.rd.val * 2 ^ 8 + f.ra.val * 2 ^ 12 + f.rb.val * 2 ^ 16)

/-- The fields of a command, an unused register field at 0 (R61, R65). -/
def commandFields : Instr → WordFields
  | .init => ⟨0x01, 0, 0, 0⟩
  | .fromcan rd ra => ⟨0x10, rd, ra, 0⟩
  | .tocan rd ra => ⟨0x11, rd, ra, 0⟩
  | .mmul rd ra rb => ⟨0x20, rd, ra, rb⟩
  | .fadd rd ra rb => ⟨0x30, rd, ra, rb⟩
  | .fsub rd ra rb => ⟨0x31, rd, ra, rb⟩
  | .fneg rd ra => ⟨0x32, rd, ra, 0⟩
  | .fpow rd ra rb => ⟨0x40, rd, ra, rb⟩
  | .finv rd ra => ⟨0x41, rd, ra, 0⟩
  | .root rd ra => ⟨0x50, rd, ra, 0⟩

theorem opField_toNat (c : PortWord) : (opField c).toNat = c.toNat % 2 ^ 8 := by
  simp [opField]

theorem rdField_val (c : PortWord) : (rdField c).val = c.toNat / 2 ^ 8 % 2 ^ 4 := by
  simp [rdField, Nat.shiftRight_eq_div_pow]

theorem raField_val (c : PortWord) : (raField c).val = c.toNat / 2 ^ 12 % 2 ^ 4 := by
  simp [raField, Nat.shiftRight_eq_div_pow]

theorem rbField_val (c : PortWord) : (rbField c).val = c.toNat / 2 ^ 16 % 2 ^ 4 := by
  simp [rbField, Nat.shiftRight_eq_div_pow]

theorem WordFields.value_toNat (f : WordFields) :
    f.value.toNat = f.op.toNat + f.rd.val * 2 ^ 8 + f.ra.val * 2 ^ 12 + f.rb.val * 2 ^ 16 := by
  have hop := f.op.isLt
  rw [WordFields.value, BitVec.toNat_ofNat]
  omega

@[simp] theorem fieldsOf_value (f : WordFields) : fieldsOf f.value = f := by
  obtain ⟨op, rd, ra, rb⟩ := f
  have hsum := WordFields.value_toNat ⟨op, rd, ra, rb⟩
  have hop := op.isLt
  simp only [fieldsOf, WordFields.mk.injEq, ← BitVec.toNat_inj, Fin.ext_iff, opField_toNat, rdField_val, raField_val,
    rbField_val, hsum]
  omega

/-- The fields say all of a value that has nothing above them. -/
theorem value_fieldsOf {c : PortWord} (h : c.toNat < 2 ^ 20) : (fieldsOf c).value = c := by
  apply BitVec.eq_of_toNat_eq
  simp only [WordFields.value_toNat, fieldsOf, opField_toNat, rdField_val, raField_val, rbField_val]
  omega

theorem WordFields.value_eq_iff (f : WordFields) (c : PortWord) : f.value = c ↔ c.toNat < 2 ^ 20 ∧ fieldsOf c = f := by
  constructor
  · rintro rfl
    have hsum := f.value_toNat
    have hop := f.op.isLt
    exact ⟨by omega, fieldsOf_value f⟩
  · rintro ⟨hsmall, rfl⟩
    exact value_fieldsOf hsmall

/-! #### The encoder by fields -/

theorem setWidth_encodeT {op : Nat} (rd ra rb : Reg) (hop : op < 2 ^ 8) :
    (encodeT op rd ra rb).setWidth 64 = WordFields.value ⟨BitVec.ofNat 8 op, rd, ra, rb⟩ := by
  apply BitVec.eq_of_toNat_eq
  simp only [WordFields.value_toNat, encodeT, BitVec.toNat_setWidth, BitVec.toNat_ofNat]
  omega

theorem encodeU_eq_encodeT (op : Nat) (rd ra : Reg) : encodeU op rd ra = encodeT op rd ra 0 := by
  simp [encodeU, encodeT]

theorem setWidth_encodeU {op : Nat} (rd ra : Reg) (hop : op < 2 ^ 8) :
    (encodeU op rd ra).setWidth 64 = WordFields.value ⟨BitVec.ofNat 8 op, rd, ra, 0⟩ := by
  rw [encodeU_eq_encodeT, setWidth_encodeT rd ra 0 hop]

/-- The encoder writes the command's fields (R68). -/
theorem cmdValue_eq_value (i : Instr) : cmdValue i = (commandFields i).value := by
  cases i with
  | init => rfl
  | mmul rd ra rb | fadd rd ra rb | fsub rd ra rb | fpow rd ra rb =>
    rw [cmdValue, encode, setWidth_encodeT rd ra rb (by decide)]
    rfl
  | fromcan rd ra | tocan rd ra | fneg rd ra | finv rd ra | root rd ra =>
    rw [cmdValue, encode, setWidth_encodeU rd ra (by decide)]
    rfl

/-! #### The decoder by fields -/

/-- Format U (R61). -/
theorem decodeU_eq_ok_iff (c : PortWord) (i j : Instr) : decodeU c i = .ok j ↔ rbField c = 0 ∧ i = j := by
  by_cases h : rbField c = 0 <;> simp [decodeU, h]

theorem decodeU_error_iff (c : PortWord) (i : Instr) : (∃ e, decodeU c i = .error e) ↔ rbField c ≠ 0 := by
  by_cases h : rbField c = 0 <;> simp [decodeU, h]

/-- Format Z (R61). -/
theorem decodeZ_eq_ok_iff (c : PortWord) (i j : Instr) :
    decodeZ c i = .ok j ↔ (rdField c = 0 ∧ raField c = 0 ∧ rbField c = 0) ∧ i = j := by
  by_cases h : rdField c = 0 ∧ raField c = 0 ∧ rbField c = 0 <;> simp [decodeZ, h]

theorem decodeZ_error_iff (c : PortWord) (i : Instr) :
    (∃ e, decodeZ c i = .error e) ↔ rbField c ≠ 0 ∨ raField c ≠ 0 ∨ rdField c ≠ 0 := by
  by_cases h : rdField c = 0 ∧ raField c = 0 ∧ rbField c = 0
  · simp [decodeZ, h]
  · simp only [decodeZ, h, if_false, Except.error.injEq, exists_eq', true_iff]
    tauto

/-- The opcode's decoder reads the command with these fields (R65, R68). -/
theorem decodeOp_eq_ok_iff (c : PortWord) (i : Instr) : decodeOp c = .ok i ↔ fieldsOf c = commandFields i := by
  constructor
  · intro h
    unfold decodeOp at h
    split at h
    case h_1 hop =>
      obtain ⟨⟨hrd, hra, hrb⟩, rfl⟩ := (decodeZ_eq_ok_iff ..).1 h
      simp [fieldsOf, commandFields, hop, hrd, hra, hrb]
    case h_4 hop | h_5 hop | h_6 hop | h_8 hop =>
      cases h
      simp [fieldsOf, commandFields, hop]
    case h_11 => contradiction
    all_goals
      next hop =>
      obtain ⟨hrb, rfl⟩ := (decodeU_eq_ok_iff ..).1 h
      simp [fieldsOf, commandFields, hop, hrb]
  · intro h
    cases i
    all_goals
      simp only [fieldsOf, commandFields, WordFields.mk.injEq] at h
      obtain ⟨hop, hrd, hra, hrb⟩ := h
      simp [decodeOp, decodeU, decodeZ, hop, hrd, hra, hrb]

/-- Nothing stands above the fields: `c[63:32] = 0` and `w[31:20] = 0` (R66 (a), (c)). -/
theorem highParts_zero_iff (c : PortWord) :
    (c.extractLsb' 32 32 = 0 ∧ c.extractLsb' 20 12 = 0) ↔ c.toNat < 2 ^ 20 := by
  have hc := c.isLt
  simp only [← BitVec.toNat_inj, BitVec.extractLsb'_toNat, Nat.shiftRight_eq_div_pow, BitVec.ofNat_eq_ofNat,
    BitVec.toNat_zero]
  omega

theorem decode_of_lt {c : PortWord} (h : c.toNat < 2 ^ 20) : decode c = decodeOp c := by
  obtain ⟨hupper, hhigh⟩ := (highParts_zero_iff c).2 h
  simp [decode, hupper, hhigh]

theorem decode_of_not_lt {c : PortWord} (h : ¬c.toNat < 2 ^ 20) : ∃ e, decode c = .error e := by
  unfold decode
  split_ifs with hupper hhigh
  · exact ⟨_, rfl⟩
  · exact ⟨_, rfl⟩
  · exact absurd ((highParts_zero_iff c).1 ⟨not_not.1 hupper, not_not.1 hhigh⟩) h

/-- R68 in both directions: a value decodes to a command exactly when it is that command's CMD value. -/
theorem decode_eq_ok_iff (c : PortWord) (i : Instr) : decode c = .ok i ↔ cmdValue i = c := by
  rw [cmdValue_eq_value, WordFields.value_eq_iff]
  by_cases h : c.toNat < 2 ^ 20
  · rw [decode_of_lt h, decodeOp_eq_ok_iff]
    exact (and_iff_right h).symm
  · obtain ⟨e, he⟩ := decode_of_not_lt h
    simp only [he, h, reduceCtorEq, false_and]

/-- Settles O2, by `decode_eq_ok_iff`. -/
theorem decodeOfEncodedCommand : Obligations.DecodeOfEncodedCommand :=
  fun i => (decode_eq_ok_iff _ i).2 rfl

/-- Settles O3, by the other direction of `decode_eq_ok_iff`. -/
theorem encodeOfDecodedValue : Obligations.EncodeOfDecodedValue :=
  fun c i => (decode_eq_ok_iff c i).1

/-- Settles O1: each word is the encoding of its command. -/
theorem specWordsDecode : Obligations.SpecWordsDecode := by
  simp only [Obligations.SpecWordsDecode, decode_eq_ok_iff]
  decide

/-! #### The illegal words -/

/-- The cases (b), (d) and (e) of R66: what the low twenty bits of a value can do wrong. -/
def FieldsIllegal (c : PortWord) : Prop :=
  c.toNat % 2 ^ 8 ∉ [0x01, 0x10, 0x11, 0x20, 0x30, 0x31, 0x32, 0x40, 0x41, 0x50] ∨
    (c.toNat % 2 ^ 8 ∈ [0x10, 0x11, 0x32, 0x41, 0x50] ∧ c.toNat / 2 ^ 16 % 2 ^ 4 ≠ 0) ∨
    (c.toNat % 2 ^ 8 = 0x01 ∧
      (c.toNat / 2 ^ 16 % 2 ^ 4 ≠ 0 ∨ c.toNat / 2 ^ 12 % 2 ^ 4 ≠ 0 ∨ c.toNat / 2 ^ 8 % 2 ^ 4 ≠ 0))

/-- Opcode by opcode: format U wants `rb` to be 0, format Z all three, format T nothing. -/
theorem decodeOp_error_iff (c : PortWord) : (∃ e, decodeOp c = .error e) ↔ FieldsIllegal c := by
  unfold decodeOp FieldsIllegal
  rw [← opField_toNat, ← rdField_val, ← raField_val, ← rbField_val]
  split
  case h_1 hop => simp [hop, decodeZ_error_iff]
  case h_4 hop | h_5 hop | h_6 hop | h_8 hop => simp [hop]
  case h_11 =>
    -- none of the ten opcodes: the decoder refuses, and clause (b) says so
    simp_all [← BitVec.toNat_inj]
  all_goals
    next hop => simp [hop, decodeU_error_iff]

/-- The decoder refuses what stands above the fields, and then what the fields do wrong (R66, R68). -/
theorem decode_error_iff (c : PortWord) : (∃ e, decode c = .error e) ↔ ¬c.toNat < 2 ^ 20 ∨ FieldsIllegal c := by
  by_cases h : c.toNat < 2 ^ 20
  · rw [decode_of_lt h, decodeOp_error_iff, or_iff_right (not_not_intro h)]
  · exact iff_of_true (decode_of_not_lt h) (.inl h)

/-! #### The opcode map -/

/-- A field that a row's mask covers is the row's (R65). -/
theorem field_of_row {c : PortWord} {mask pat : CmdWord} (h : c.setWidth 32 &&& mask = pat) {start len : Nat}
    (hlow : start + len ≤ 32) (hmask : mask.extractLsb' start len = BitVec.allOnes len) :
    c.extractLsb' start len = pat.extractLsb' start len := by
  rw [← h, BitVec.extractLsb'_and, hmask, BitVec.and_allOnes]
  ext k hk
  simp [BitVec.getElem_extractLsb', BitVec.getLsbD_setWidth]
  omega

/-- The command's word matches its row (R65). -/
theorem legalCommand_cmdValue (i : Instr) : legalCommand (cmdValue i) = true := by
  cases i with
  | init => exact Laws.EncodedLegal.init
  | fromcan rd ra => exact Laws.EncodedLegal.fromcan rd ra
  | tocan rd ra => exact Laws.EncodedLegal.tocan rd ra
  | mmul rd ra rb => exact Laws.EncodedLegal.mmul rd ra rb
  | fadd rd ra rb => exact Laws.EncodedLegal.fadd rd ra rb
  | fsub rd ra rb => exact Laws.EncodedLegal.fsub rd ra rb
  | fneg rd ra => exact Laws.EncodedLegal.fneg rd ra
  | fpow rd ra rb => exact Laws.EncodedLegal.fpow rd ra rb
  | finv rd ra => exact Laws.EncodedLegal.finv rd ra
  | root rd ra => exact Laws.EncodedLegal.root rd ra

/-- Every row's mask covers the opcode and the high bits, and the high bits are 0 in every row (R65). -/
theorem opRows_cover : ∀ row ∈ opRows, row.mask.extractLsb' 0 8 = BitVec.allOnes 8 ∧
    row.mask.extractLsb' 20 12 = BitVec.allOnes 12 ∧ row.pat.extractLsb' 20 12 = 0 := by decide

/-- A value that matches a row decodes: the opcode is the row's, and so is each register field that its format wants 0. -/
theorem exists_decode_of_row {c : PortWord} (hupper : c.toNat / 2 ^ 32 = 0) {row : OpRow} (hrow : row ∈ opRows)
    (h : c.setWidth 32 &&& row.mask = row.pat) : ∃ i, decode c = .ok i := by
  obtain ⟨hopMask, hhighMask, hhighPat⟩ := opRows_cover row hrow
  have hop : opField c = row.pat.extractLsb' 0 8 := field_of_row h (by decide) hopMask
  have hhigh : c.extractLsb' 20 12 = 0 := (field_of_row h (by decide) hhighMask).trans hhighPat
  -- these three still ask that the row's mask covers the register field; simp checks it row by row
  have hrd := field_of_row (start := 8) (len := 4) h (by decide)
  have hra := field_of_row (start := 12) (len := 4) h (by decide)
  have hrb := field_of_row (start := 16) (len := 4) h (by decide)
  have hupper' : c.extractLsb' 32 32 = 0 := by
    apply extractLsb'_eq_of_toNat
    rw [hupper]
    rfl
  rw [decode_of_lt ((highParts_zero_iff c).1 ⟨hupper', hhigh⟩)]
  simp only [opRows, List.mem_cons, List.not_mem_nil, or_false] at hrow
  rcases hrow with rfl | rfl | rfl | rfl | rfl | rfl | rfl | rfl | rfl | rfl
  all_goals simp [decodeOp, decodeU, decodeZ, rdField, raField, rbField, hop, hrd, hra, hrb]

/-- The well-formedness check is R66's equivalent form. -/
theorem legalCommand_iff (c : PortWord) : legalCommand c = true ↔
    c.toNat / 2 ^ 32 = 0 ∧ ∃ row ∈ opRows, c.setWidth 32 &&& row.mask = row.pat := by
  have hc := c.isLt
  simp only [legalCommand, upperHalfZero, matchesTable, OpRow.matchesWord, Bool.and_eq_true, List.any_eq_true, beq_iff_eq,
    ← BitVec.toNat_inj (x := c.extractLsb' 32 32), BitVec.extractLsb'_toNat, Nat.shiftRight_eq_div_pow]
  rw [Nat.mod_eq_of_lt (by omega)]
  rfl

theorem exists_decode_iff_legal (c : PortWord) : (∃ i, decode c = .ok i) ↔ legalCommand c = true := by
  constructor
  · rintro ⟨i, hi⟩
    rw [← (decode_eq_ok_iff c i).1 hi]
    exact legalCommand_cmdValue i
  · intro hlegal
    obtain ⟨hupper, row, hrow, hmatch⟩ := (legalCommand_iff c).1 hlegal
    exact exists_decode_of_row hupper hrow hmatch

/-- Settles O4: the cases of R66 by `decode_error_iff`, the rows by `exists_decode_iff_legal`, the error's end by
`execute_error`. -/
theorem illegalWordsExactly : Obligations.IllegalWordsExactly := by
  intro c
  refine ⟨?cases, (exists_decode_iff_legal c).trans (legalCommand_iff c), ?_⟩
  case cases =>
    have hparts : c.toNat < 2 ^ 20 ↔ c.toNat / 2 ^ 32 = 0 ∧ c.toNat / 2 ^ 20 % 2 ^ 12 = 0 := by omega
    rw [decode_error_iff, hparts, FieldsIllegal, not_and_or, or_assoc]
    exact or_congr_right or_left_comm
  · rintro s rfl ⟨e, he⟩
    exact execute_error he

end Sys2Proof.Machine

/-! ### INIT and the derived constants (41_init_constants.md)

#### The negated inverse (R91, R97)

The error `1 − p0·x` of a Newton approximation is squared by each pass, in the ring of 64-bit words. It starts even for odd
`p0`, so after six passes it is a 64th power of an even word, which is 0. -/

namespace Sys2Proof.Machine

theorem newtonPass_error (p0 x : Limb) : 1 - p0 * newtonPass p0 x = (1 - p0 * x) ^ 2 := by
  rw [newtonPass, show (2 : Limb) = 1 + 1 from rfl]
  ring

theorem newtonPasses_error (p0 : Limb) (n : Nat) (x : Limb) :
    1 - p0 * newtonPasses p0 n x = (1 - p0 * x) ^ 2 ^ n := by
  induction n generalizing x with
  | zero => rw [newtonPasses, pow_zero, pow_one]
  | succ n ih => rw [newtonPasses, ih, newtonPass_error, ← pow_mul, pow_succ']

/-- The 64th power of an even word has the factor `2^64`. -/
theorem even_pow_64 {x : Limb} (h : x.toNat % 2 = 0) : x ^ 64 = 0 := by
  apply BitVec.eq_of_toNat_eq
  rw [BitVec.toNat_pow, limb_zero]
  exact Nat.mod_eq_zero_of_dvd (pow_dvd_pow_of_dvd (Nat.dvd_of_mod_eq_zero h) 64)

/-- Newton's iteration from 1 inverts every odd word (R97). -/
theorem mul_newtonPasses {p0 : Limb} (h : p0.toNat % 2 = 1) : p0 * newtonPasses p0 6 1 = 1 := by
  have heven : (1 - p0 * 1).toNat % 2 = 0 := by
    have hp0 := p0.isLt
    rw [mul_one, BitVec.toNat_sub, show (1 : Limb).toNat = 1 from rfl]
    omega
  have herror : 1 - p0 * newtonPasses p0 6 1 = 0 := by
    rw [newtonPasses_error]
    exact even_pow_64 heven
  exact (sub_eq_zero.mp herror).symm

theorem mul_neginv64 {p0 : Limb} (h : p0.toNat % 2 = 1) : p0 * neginv64 p0 = -1 := by
  rw [neginv64, zero_sub, mul_neg, mul_newtonPasses h]

/-- An odd word can be cancelled, so the solution is the only one (R91). -/
theorem eq_neginv64 {p0 v : Limb} (h : p0.toNat % 2 = 1) (hv : p0 * v = -1) : v = neginv64 p0 := by
  calc v = p0 * newtonPasses p0 6 1 * v := by rw [mul_newtonPasses h, one_mul]
    _ = newtonPasses p0 6 1 * (p0 * v) := by ring
    _ = neginv64 p0 := by rw [hv, neginv64]; ring

/-- A multiple of an even word is even. -/
theorem even_mul {p0 : Limb} (h : p0.toNat % 2 = 0) (v : Limb) : (p0 * v).toNat % 2 = 0 := by
  rw [BitVec.toNat_mul, Nat.mod_mod_of_dvd _ (by decide), Nat.mul_mod, h, Nat.zero_mul, Nat.zero_mod]

/-- Settles O27: all ones is the word −1, which Newton's inverse solves for odd `p0`; it is odd, so no multiple of an even
`p0` reaches it. -/
theorem neginvIsTheNegatedInverse : Obligations.NeginvIsTheNegatedInverse := by
  intro p0
  refine ⟨fun hodd => ⟨mul_neginv64 hodd, fun v hv => eq_neginv64 hodd hv⟩, fun heven v hv => ?_⟩
  have hparity := even_mul heven v
  rw [hv] at hparity
  exact absurd hparity (by decide)

end Sys2Proof.Machine

/-! #### The REDC engine as arithmetic (43_mmul_redc.md)

INIT computes WM and checks it with `montmul`. First, what the rows, the rounds and the product are as numbers, for every
modulus; then `montmul` of this engine on Montgomery forms. -/

namespace Sys2Proof.Machine

theorem Accumulator.value_lt {t : Accumulator} (h : t.t4 = 0) : t.value < 2 ^ 256 := by
  have h0 := t.t0.isLt
  have h1 := t.t1.isLt
  have h2 := t.t2.isLt
  have h3 := t.t3.isLt
  rw [Accumulator.value, h, limb_zero]
  omega

/-- Position 4 is empty when the value fits in the four limbs below it. -/
theorem Accumulator.t4_eq_zero {t : Accumulator} (h : t.value < 2 ^ 256) : t.t4 = 0 := by
  apply BitVec.eq_of_toNat_eq
  rw [Accumulator.value] at h
  rw [limb_zero]
  omega

theorem limb_mul_elem_lt (x : Limb) (y : Elem) : x.toNat * y.toNat < 2 ^ 64 * 2 ^ 128 :=
  Nat.mul_lt_mul'' x.isLt y.isLt

/-- `mulwide` is the exact product (R112). -/
theorem mulwide_value (a b : Elem) : (mulwide a b).value = a.toNat * b.toNat := by
  have hlo := limb_mul_elem_lt (loLimb a) b
  have hhi := limb_mul_elem_lt (hiLimb a) b
  have hrow0 := addRow0_value (loLimb a) (loLimb b) (hiLimb b) ⟨0, 0, 0, 0, 0⟩
  rw [limbs_value, show Accumulator.value ⟨0, 0, 0, 0, 0⟩ = 0 from rfl, Nat.zero_add] at hrow0
  have hrow1 := addRow1_value (hiLimb a) (loLimb b) (hiLimb b) (addRow0 (loLimb a) (loLimb b) (hiLimb b) ⟨0, 0, 0, 0, 0⟩)
  rw [limbs_value, hrow0 (by omega)] at hrow1
  rw [mulwide, hrow1 (by omega)]
  calc (loLimb a).toNat * b.toNat + (hiLimb a).toNat * b.toNat * 2 ^ 64
      = ((loLimb a).toNat + (hiLimb a).toNat * 2 ^ 64) * b.toNat := by ring
    _ = a.toNat * b.toNat := by rw [limbs_value]

/-- The product of two elements leaves the fifth position empty (R112). -/
theorem mulwide_t4 (a b : Elem) : (mulwide a b).t4 = 0 := by
  apply Accumulator.t4_eq_zero
  calc (mulwide a b).value = a.toNat * b.toNat := mulwide_value a b
    _ < 2 ^ 128 * 2 ^ 128 := Nat.mul_lt_mul'' a.isLt b.isLt
    _ = 2 ^ 256 := by norm_num

section rounds
variable (c : Config) (inv : Limb) (t : Accumulator)

/-- Round 0 adds a multiple of p (R113, R115). -/
theorem redcRound0_value (h : t.t4 = 0) :
    (redcRound0 c inv t).value = t.value + (roundMultiplier inv t.t0).toNat * c.p.toNat := by
  have hvalue := Accumulator.value_lt h
  have hproduct := limb_mul_elem_lt (roundMultiplier inv t.t0) c.p
  rw [redcRound0, addRow0_value _ _ _ _ (by rw [limbs_value]; omega), limbs_value]

/-- The two rounds add a multiple of p and lose no carry (R113, R115, R119). -/
theorem redcRounds_value (h : t.t4 = 0) :
    (redcRounds c inv t).value = t.value +
      ((roundMultiplier inv t.t0).toNat + (roundMultiplier inv (redcRound0 c inv t).t1).toNat * 2 ^ 64) * c.p.toNat := by
  have hvalue := Accumulator.value_lt h
  have hround0 := redcRound0_value c inv t h
  have hproduct0 := limb_mul_elem_lt (roundMultiplier inv t.t0) c.p
  have hproduct1 := limb_mul_elem_lt (roundMultiplier inv (redcRound0 c inv t).t1) c.p
  rw [redcRounds, redcRound1, addRow1_value _ _ _ _ (by rw [limbs_value]; omega), limbs_value, hround0]
  ring

end rounds

section reduction
variable {c : Config} {inv : Limb} {t : Accumulator}

/-- The low limb of a `mac` without a carry in, as a word (R83). -/
theorem mac_low (x y z : Limb) : (mac x y z 0).1 = x + y * z := by
  have hvalue := mac_value x y z 0
  rw [limb_zero] at hvalue
  have hlow := (mac x y z 0).1.isLt
  apply BitVec.eq_of_toNat_eq
  rw [BitVec.toNat_add, BitVec.toNat_mul]
  omega

theorem roundMultiplier_eq (inv x : Limb) : roundMultiplier inv x = x * inv := by
  apply BitVec.eq_of_toNat_eq
  rw [BitVec.toNat_mul]
  rfl

/-- With INV·p[0] = −1, the round's lowest `mac` cancels its limb (R115). -/
theorem mac_roundMultiplier (hinv : loLimb c.p * inv = -1) (x : Limb) :
    (mac x (roundMultiplier inv x) (loLimb c.p) 0).1 = 0 := by
  rw [mac_low, roundMultiplier_eq, mul_assoc, mul_comm inv, hinv]
  ring

theorem redcRound0_t0 (hinv : loLimb c.p * inv = -1) : (redcRound0 c inv t).t0 = 0 :=
  mac_roundMultiplier hinv t.t0

/-- Round 1 does not touch limb 0. -/
theorem redcRounds_t0 (hinv : loLimb c.p * inv = -1) : (redcRounds c inv t).t0 = 0 :=
  redcRound0_t0 hinv

theorem redcRounds_t1 (hinv : loLimb c.p * inv = -1) : (redcRounds c inv t).t1 = 0 :=
  mac_roundMultiplier hinv (redcRound0 c inv t).t1

/-- Two limbs of multipliers keep the sum below `2p·2^128` (R115). -/
theorem redcRounds_lt (ht4 : t.t4 = 0) (hbound : t.value < c.p.toNat * 2 ^ 128) :
    (redcRounds c inv t).value < 2 * c.p.toNat * 2 ^ 128 := by
  have h0 := (roundMultiplier inv t.t0).isLt
  have h1 := (roundMultiplier inv (redcRound0 c inv t).t1).isLt
  rw [redcRounds_value c inv t ht4]
  calc _ < c.p.toNat * 2 ^ 128 + 2 ^ 128 * c.p.toNat :=
        Nat.add_lt_add_of_lt_of_le hbound (Nat.mul_le_mul_right _ (by omega))
    _ = 2 * c.p.toNat * 2 ^ 128 := by ring

/-- The limbs 2 to 4 that the rounds leave for the conditional subtraction. -/
def Accumulator.high (t : Accumulator) : Nat := t.t2.toNat + t.t3.toNat * 2 ^ 64 + t.t4.toNat * 2 ^ 128

theorem redcRounds_value_eq_high (hinv : loLimb c.p * inv = -1) :
    (redcRounds c inv t).value = (redcRounds c inv t).high * 2 ^ 128 := by
  rw [Accumulator.value, Accumulator.high, redcRounds_t0 hinv, redcRounds_t1 hinv, limb_zero]
  ring

/-- The top limb as the bit that `redc` hands to the subtraction. -/
theorem bne_zero_toNat {x : Limb} (h : x.toNat ≤ 1) : (x != 0).toNat = x.toNat := by
  by_cases hzero : x = 0
  · rw [hzero]; rfl
  · have hpos : x.toNat ≠ 0 := fun hx => hzero (BitVec.eq_of_toNat_eq hx)
    rw [bne_iff_ne.mpr hzero, Bool.toNat_true]
    omega

/-- The one subtraction is enough: `redc` is the upper part of the sum modulo p (R113, R115). -/
theorem redc_toNat (hinv : loLimb c.p * inv = -1) (ht4 : t.t4 = 0) (hbound : t.value < c.p.toNat * 2 ^ 128) :
    (redc c inv t).toNat = (redcRounds c inv t).high % c.p.toNat := by
  have hhigh : (redcRounds c inv t).high < 2 * c.p.toNat := by
    have hlt := redcRounds_lt (inv := inv) ht4 hbound
    rw [redcRounds_value_eq_high hinv] at hlt
    exact Nat.lt_of_mul_lt_mul_right hlt
  have hp := c.p.isLt
  rw [Accumulator.high] at hhigh ⊢
  have htop : (redcRounds c inv t).t4.toNat ≤ 1 := by omega
  rw [← bne_zero_toNat htop] at hhigh ⊢
  exact reduceOnce_toNat c _ _ _ hhigh

/-- `redc` divides by `2^128` modulo p (R117). -/
theorem redc_modEq (hinv : loLimb c.p * inv = -1) (ht4 : t.t4 = 0) (hbound : t.value < c.p.toNat * 2 ^ 128) :
    (redc c inv t).toNat * 2 ^ 128 ≡ t.value [MOD c.p.toNat] := by
  rw [redc_toNat hinv ht4 hbound]
  calc (redcRounds c inv t).high % c.p.toNat * 2 ^ 128
      ≡ (redcRounds c inv t).high * 2 ^ 128 [MOD c.p.toNat] := (Nat.mod_modEq _ _).mul_right _
    _ = (redcRounds c inv t).value := (redcRounds_value_eq_high hinv).symm
    _ ≡ t.value [MOD c.p.toNat] := by
        rw [redcRounds_value c inv t ht4]
        exact Nat.add_mul_modulus_modEq_iff.mpr rfl

theorem redc_lt (hinv : loLimb c.p * inv = -1) (ht4 : t.t4 = 0) (hbound : t.value < c.p.toNat * 2 ^ 128) :
    (redc c inv t).toNat < c.p.toNat := by
  rw [redc_toNat hinv ht4 hbound]
  exact Nat.mod_lt _ (Nat.pos_of_mul_pos_right (Nat.zero_lt_of_lt hbound))

end reduction

/-! #### Montgomery forms in this engine (R8, R100, R117) -/

theorem primeP_lt : primeP < 2 ^ 128 := by decide

theorem montFactor_coprime : primeP.Coprime (2 ^ 128) := by norm_num [primeP]

/-- INV negates the inverse of p's low limb (R21, R91). -/
theorem invWord_spec : loLimb Config.engine.p * invWord = -1 := by decide

theorem mont_toNat (x : Nat) : (mont x).toNat = x * 2 ^ 128 % primeP := by
  rw [mont, BitVec.toNat_ofNat]
  exact Nat.mod_eq_of_lt ((Nat.mod_lt _ (by decide)).trans primeP_lt)

theorem mont_reduced (x : Nat) : Reduced (mont x) := by
  rw [Reduced, mont_toNat]
  exact Nat.mod_lt _ (by decide)

theorem montTwo_toNat : montTwo.toNat = 2 ^ 256 % primeP := by decide

theorem mont_one : mont 1 = montOne := rfl

/-- A reduced value is the Montgomery form of every number it represents. -/
theorem eq_mont_of_modEq {e : Elem} {x : Nat} (hreduced : Reduced e) (h : e.toNat ≡ x * 2 ^ 128 [MOD primeP]) :
    e = mont x := by
  apply BitVec.eq_of_toNat_eq
  rw [mont_toNat, ← Nat.mod_eq_of_lt hreduced]
  exact h

/-- The Montgomery form loses exactly the multiples of p. -/
theorem mont_eq_mont_iff (x y : Nat) : mont x = mont y ↔ x ≡ y [MOD primeP] := by
  rw [← BitVec.toNat_inj, mont_toNat, mont_toNat]
  exact ⟨Nat.ModEq.cancel_right_of_coprime montFactor_coprime, fun h => h.mul_right _⟩

theorem mulwide_bound {a : Elem} (ha : Reduced a) (b : Elem) :
    (mulwide a b).value < Config.engine.p.toNat * 2 ^ 128 := by
  rw [mulwide_value]
  exact Nat.mul_lt_mul'' ha b.isLt

theorem montmul_reduced {a : Elem} (ha : Reduced a) (b : Elem) : Reduced (montmul Config.engine invWord a b) :=
  redc_lt invWord_spec (mulwide_t4 a b) (mulwide_bound ha b)

/-- `montmul` multiplies and divides by `2^128` (R117). -/
theorem montmul_modEq {a : Elem} (ha : Reduced a) (b : Elem) :
    (montmul Config.engine invWord a b).toNat * 2 ^ 128 ≡ a.toNat * b.toNat [MOD primeP] := by
  rw [← mulwide_value]
  exact redc_modEq invWord_spec (mulwide_t4 a b) (mulwide_bound ha b)

/-- The product of a reduced value with a word that stands for `y·2^256` is a Montgomery form. -/
theorem montmul_eq_mont {a b : Elem} {x : Nat} (ha : Reduced a)
    (h : a.toNat * b.toNat ≡ x * 2 ^ 128 * 2 ^ 128 [MOD primeP]) : montmul Config.engine invWord a b = mont x :=
  eq_mont_of_modEq (montmul_reduced ha b)
    (Nat.ModEq.cancel_right_of_coprime montFactor_coprime ((montmul_modEq ha b).trans h))

/-- The product of two Montgomery forms (R117). -/
theorem montmul_mont (x y : Nat) : montmul Config.engine invWord (mont x) (mont y) = mont (x * y) := by
  apply montmul_eq_mont (mont_reduced x)
  rw [mont_toNat, mont_toNat]
  calc x * 2 ^ 128 % primeP * (y * 2 ^ 128 % primeP)
      ≡ x * 2 ^ 128 * (y * 2 ^ 128) [MOD primeP] := (Nat.mod_modEq _ _).mul (Nat.mod_modEq _ _)
    _ = x * y * 2 ^ 128 * 2 ^ 128 := by ring

/-- Multiplying by R2 makes the Montgomery form (R100). -/
theorem montmul_montTwo {a : Elem} (ha : Reduced a) : montmul Config.engine invWord a montTwo = mont a.toNat := by
  apply montmul_eq_mont ha
  rw [montTwo_toNat]
  calc a.toNat * (2 ^ 256 % primeP) ≡ a.toNat * 2 ^ 256 [MOD primeP] := (Nat.mod_modEq _ _).mul_left _
    _ = a.toNat * 2 ^ 128 * 2 ^ 128 := by ring

theorem squarings_mont (n x : Nat) : squarings Config.engine invWord n (mont x) = mont (x ^ 2 ^ n) := by
  induction n generalizing x with
  | zero => rw [squarings, pow_zero, pow_one]
  | succ n ih => rw [squarings, montmul_mont, ih, ← pow_two, ← pow_mul, pow_succ']

/-! #### INIT (R90 to R96) -/

/-- The value that `ω^(2^31)` must have is −1 in Montgomery form (R93). -/
theorem fneg_montOne : fneg Config.engine montOne = mont (primeP - 1) := by decide

/-- INIT's two checks on `x = WM^(2^31)` say that a reduced OMEGA is a base root (R93). -/
theorem baseRoot_iff_checks {w : Elem} (hreduced : Reduced w) :
    IsBaseRoot w ↔ squarings Config.engine invWord 31 (mont w.toNat) = fneg Config.engine montOne ∧
      montmul Config.engine invWord (squarings Config.engine invWord 31 (mont w.toNat))
        (squarings Config.engine invWord 31 (mont w.toNat)) = montOne := by
  have hsquare : w.toNat ^ 2 ^ 31 * w.toNat ^ 2 ^ 31 = w.toNat ^ 2 ^ 32 := by rw [← pow_two, ← pow_mul, ← pow_succ]
  rw [squarings_mont, montmul_mont, hsquare, fneg_montOne, ← mont_one, mont_eq_mont_iff, mont_eq_mont_iff]
  exact ⟨fun ⟨_, hminus, hone⟩ => ⟨hminus, hone⟩, fun ⟨hminus, hone⟩ => ⟨hreduced, hminus, hone⟩⟩

/-- INV as INIT derives it (R91): the solution is the only one. -/
theorem neginv64_engine : neginv64 (loLimb Config.engine.p) = invWord :=
  (eq_neginv64 (by decide) invWord_spec).symm

theorem pow2mod_128 : pow2mod Config.engine 128 = montOne := rfl

theorem pow2mod_256 : pow2mod Config.engine 256 = montTwo := rfl

theorem engine_p_odd : Config.engine.p.getLsbD 0 = true := by decide

theorem deriveConstants_of_not_reduced {w : Elem} (h : ¬Reduced w) : deriveConstants Config.engine w = none := by
  have hrange : ltP Config.engine w = false := by rwa [← Bool.not_eq_true, ltP_engine]
  simp [deriveConstants, hrange]

/-- What stands between a reduced OMEGA and the commit are the two checks of R93. -/
theorem deriveConstants_of_reduced {w : Elem} (h : Reduced w) : deriveConstants Config.engine w =
    if squarings Config.engine invWord 31 (mont w.toNat) ≠ fneg Config.engine montOne then none
    else if montmul Config.engine invWord (squarings Config.engine invWord 31 (mont w.toNat))
        (squarings Config.engine invWord 31 (mont w.toNat)) ≠ montOne then none
    else some { inv := invWord, r := montOne, r2 := montTwo, wm := mont w.toNat } := by
  rw [deriveConstants, neginv64_engine, pow2mod_128, pow2mod_256, engine_p_odd, (ltP_engine w).2 h]
  simp only [montmul_montTwo h, Bool.true_eq_false, if_false]

theorem deriveConstants_of_baseRoot {w : Elem} (h : IsBaseRoot w) : deriveConstants Config.engine w =
    some { inv := invWord, r := montOne, r2 := montTwo, wm := mont w.toNat } := by
  have ⟨hreduced, _, _⟩ := h
  obtain ⟨hminus, hone⟩ := (baseRoot_iff_checks hreduced).1 h
  rw [deriveConstants_of_reduced hreduced, if_neg (not_not_intro hminus), if_neg (not_not_intro hone)]

theorem deriveConstants_of_not_baseRoot {w : Elem} (h : ¬IsBaseRoot w) : deriveConstants Config.engine w = none := by
  by_cases hreduced : Reduced w
  · rw [baseRoot_iff_checks hreduced, not_and_or] at h
    rw [deriveConstants_of_reduced hreduced]
    rcases h with hminus | hone
    · rw [if_pos hminus]
    · rw [if_pos hone, ite_self]
  · exact deriveConstants_of_not_reduced hreduced

theorem execInit_ready {s : State} (h : s.ready = true) : execInit s = .next (afterError s 3) := by
  simp [execInit, h, raise_eq, errorCodeValue]

theorem execInit_of_some {s : State} {k : Constants} (hready : s.ready = false)
    (hk : deriveConstants Config.engine s.omega = some k) : execInit s = .next (commitConstants k s) := by
  simp [execInit, hready, hk]

theorem execInit_of_none {s : State} (hready : s.ready = false)
    (hk : deriveConstants Config.engine s.omega = none) : execInit s = .next (afterFatal s) := by
  simp [execInit, hready, hk, raiseFatal_eq]

/-- Settles O11: the decoder reads the encoder's word for INIT (R68); INIT's ends are those of `deriveConstants`, which
answers the constants exactly for a base root. -/
theorem initCommand : Obligations.InitCommand := by
  intro s
  refine ⟨(decode_eq_ok_iff _ _).2 rfl, execInit_ready, fun hready hroot => ?_, fun hready hroot => ?_⟩
  · exact execInit_of_some hready (deriveConstants_of_baseRoot hroot)
  · exact execInit_of_none hready (deriveConstants_of_not_baseRoot hroot)

end Sys2Proof.Machine

/-! #### What keeps the constants (R15, R47, R94) -/

namespace Sys2Proof.Machine

/-- READY and everything that a successful INIT fixes are the same in both states (R15, R94). -/
structure SameConstants (s t : State) : Prop where
  ready : t.ready = s.ready
  inv : t.inv = s.inv
  r : t.r = s.r
  r2 : t.r2 = s.r2
  wm : t.wm = s.wm
  omega : t.omega = s.omega

theorem SameConstants.refl (s : State) : SameConstants s s := ⟨rfl, rfl, rfl, rfl, rfl, rfl⟩

theorem SameConstants.trans {s t u : State} (h : SameConstants s t) (k : SameConstants t u) : SameConstants s u :=
  ⟨k.ready.trans h.ready, k.inv.trans h.inv, k.r.trans h.r, k.r2.trans h.r2, k.wm.trans h.wm, k.omega.trans h.omega⟩

/-- Once READY, OMEGA is closed (R47) and no other port word names a constant that can be written. -/
theorem applyWrite_keeps_constants {v : PortWord} {s : State} {n : PortReg} (hready : s.ready = true)
    (haccepted : writeAccepted s n = true) : SameConstants s (applyWrite v s n) := by
  cases n with
  | omegaLo | omegaHi => simp [writeAccepted, hready] at haccepted
  | _ => constructor <;> simp [applyWrite]

theorem regWrite_keeps_constants (a : PortAddr) (v : PortWord) {s : State} (hready : s.ready = true) :
    SameConstants s (regWrite a v s) := by
  rcases regWrite_cases a v s with ⟨haccepted, heq⟩ | ⟨-, heq⟩ <;> rw [heq]
  · exact applyWrite_keeps_constants hready haccepted
  · exact ⟨rfl, rfl, rfl, rfl, rfl, rfl⟩

theorem chooseLatency_keeps_constants (s : State) : SameConstants s (chooseLatency s) := ⟨rfl, rfl, rfl, rfl, rfl, rfl⟩

theorem hostRead_keeps_constants (a : PortAddr) (s : State) : SameConstants s (hostRead a s) :=
  ⟨rfl, rfl, rfl, rfl, rfl, rfl⟩

theorem advanceScript_keeps_constants (rest : List Transaction) (s : State) : SameConstants s (advanceScript rest s) :=
  ⟨rfl, rfl, rfl, rfl, rfl, rfl⟩

theorem hostWrite_keeps_constants (a : PortAddr) (v : PortWord) {s : State} (hready : s.ready = true) :
    SameConstants s (hostWrite a v s) := by
  have hport := regWrite_keeps_constants a v hready
  rcases hostWrite_cases a v s with heq | ⟨-, -, heq⟩ <;> rw [heq]
  · exact hport
  · exact hport.trans (chooseLatency_keeps_constants _)

/-- The HOST can touch the constants of a READY engine only by `RESET` (R185). -/
theorem hostTurn_keeps_constants {s : State} (hready : s.ready = true) (hreset : ∀ rest, s.script ≠ .reset :: rest) :
    SameConstants s (hostTurn s) := by
  cases hscript : s.script with
  | nil => rw [hostTurn_nil hscript]; exact .refl s
  | cons transaction rest =>
    cases transaction with
    | read a =>
      rw [hostTurn_read hscript]
      exact (advanceScript_keeps_constants rest s).trans (hostRead_keeps_constants a _)
    | write a v =>
      rw [hostTurn_write hscript]
      exact (advanceScript_keeps_constants rest s).trans (hostWrite_keeps_constants a v hready)
    | reset => exact absurd hscript (hreset rest)
    | wait =>
      cases hbusy : s.busy with
      | true =>
        rw [hostTurn_wait_busy hscript hbusy]
        exact (advanceScript_keeps_constants _ s).trans (hostRead_keeps_constants _ _)
      | false =>
        rw [hostTurn_wait_idle hscript hbusy]
        exact (advanceScript_keeps_constants _ s).trans (hostRead_keeps_constants _ _)

theorem afterError_keeps_constants (s : State) (code : BitVec 8) : SameConstants s (afterError s code) :=
  ⟨rfl, rfl, rfl, rfl, rfl, rfl⟩

theorem afterWrite_keeps_constants (s : State) (rd : Reg) (v : Elem) : SameConstants s (afterWrite s rd v) :=
  ⟨rfl, rfl, rfl, rfl, rfl, rfl⟩

/-- Once READY, a command ends in an error or in a register write: INIT is locked (R96). -/
theorem exec_keeps_constants {i : Instr} {s t : State} (hready : s.ready = true) (h : exec i s = .next t) :
    SameConstants s t := by
  rcases exec_cases i s with ⟨e, heq⟩ | ⟨rd, v, -, heq⟩ | ⟨k, -, hidle, -, -⟩ | ⟨-, hidle, -⟩
  · rw [heq] at h
    rw [← Host.Outcome.next.inj h]
    exact afterError_keeps_constants s _
  · rw [heq] at h
    rw [← Host.Outcome.next.inj h]
    exact afterWrite_keeps_constants s rd v
  all_goals exact absurd (hidle.symm.trans hready) Bool.false_ne_true

theorem execute_keeps_constants {s t : State} (hready : s.ready = true) (h : execute s = .next t) :
    SameConstants s t := by
  cases hword : decode s.cmdr with
  | ok i => exact exec_keeps_constants hready ((execute_ok hword).symm.trans h)
  | error e =>
    rw [execute_error hword] at h
    rw [← Host.Outcome.next.inj h]
    exact afterError_keeps_constants s 1

theorem step_keeps_constants {s t : State} (hready : s.ready = true) (hreset : ¬ResetIsNext s) (h : step s = .next t) :
    SameConstants s t := by
  cases hturn : engineTurn s with
  | true => exact execute_keeps_constants hready ((step_engine hturn).symm.trans h)
  | false =>
    rw [step_host hturn] at h
    rw [← Host.Outcome.next.inj h]
    exact hostTurn_keeps_constants hready fun rest hscript => hreset ⟨hturn, rest, hscript⟩

/-- Settles O46: the ENGINE's turn by `execute_keeps_constants`, the HOST's by `hostTurn_keeps_constants`. -/
theorem constantsNeverChange : Obligations.ConstantsNeverChange := by
  intro s t hready hreset hstep
  obtain ⟨hreadySame, hinv, hr, hr2, hwm, homega⟩ := step_keeps_constants hready hreset hstep
  exact ⟨hreadySame.trans hready, hinv, hr, hr2, hwm, homega⟩

end Sys2Proof.Machine

/-! ### FROMCAN and TOCAN (42_conversion.md)

Both commands are one pass of the REDC engine: over `x · R2` for FROMCAN, over the value itself for TOCAN. -/

namespace Sys2Proof.Machine

/-- The word of a command of format U, written out from R65. -/
theorem decode_formatU {i : Instr} {op : BitVec 8} {rd ra : Reg} (h : commandFields i = ⟨op, rd, ra, 0⟩) :
    decode (BitVec.ofNat 64 (op.toNat + rd.val * 2 ^ 8 + ra.val * 2 ^ 12)) = .ok i := by
  rw [decode_eq_ok_iff, cmdValue_eq_value, h, WordFields.value, Fin.val_zero, Nat.zero_mul, Nat.add_zero]

/-- Derived constants stay derived in a state with the same READY, OMEGA and constants (R176 (e), (f)). -/
theorem SameConstants.constantsDerived {s t : State} (h : SameConstants s t) (hs : ConstantsDerived s) :
    ConstantsDerived t := by
  obtain ⟨hready, hinv, hr, hr2, hwm, homega⟩ := h
  constructor
  · rw [hready, hinv, hr, hr2, hwm]
    exact hs.beforeInit
  · rw [hready, hinv, hr, hr2, hwm, homega]
    exact hs.afterInit

theorem constantsDerived_afterWrite {s : State} (h : ConstantsDerived s) (rd : Reg) (v : Elem) :
    ConstantsDerived (afterWrite s rd v) :=
  (afterWrite_keeps_constants s rd v).constantsDerived h

/-! #### The canonical form as a number (R8, R100) -/

theorem rInv_spec : rInv * 2 ^ 128 ≡ 1 [MOD primeP] := by decide

/-- R⁻¹ cancels R modulo p. -/
theorem mul_rInv_modEq (x : Nat) : x * rInv * 2 ^ 128 ≡ x [MOD primeP] :=
  calc x * rInv * 2 ^ 128 = x * (rInv * 2 ^ 128) := mul_assoc _ _ _
    _ ≡ x * 1 [MOD primeP] := rInv_spec.mul_left _
    _ = x := mul_one _

/-- In this engine `redc` multiplies by R⁻¹ (R117). -/
theorem redc_engine_toNat {t : Accumulator} (ht4 : t.t4 = 0) (hbound : t.value < primeP * 2 ^ 128) :
    (redc Config.engine invWord t).toNat = t.value * rInv % primeP := by
  have hscaled := (redc_modEq invWord_spec ht4 hbound).trans (mul_rInv_modEq t.value).symm
  have hresult := Nat.ModEq.cancel_right_of_coprime montFactor_coprime hscaled
  exact (Nat.mod_eq_of_modEq hresult.symm (redc_lt invWord_spec ht4 hbound)).symm

theorem can_lt (e : Elem) : can e < primeP := Nat.mod_lt _ (by decide)

/-- A canonical form fits in a register. -/
theorem ofNat_can_toNat (e : Elem) : (BitVec.ofNat 128 (can e)).toNat = can e := by
  rw [BitVec.toNat_ofNat]
  exact Nat.mod_eq_of_lt ((can_lt e).trans primeP_lt)

theorem ofNat_can_reduced (e : Elem) : Reduced (BitVec.ofNat 128 (can e)) := by
  rw [Reduced, ofNat_can_toNat]
  exact can_lt e

/-- `can` divides by R (R8). -/
theorem can_modEq (e : Elem) : can e * 2 ^ 128 ≡ e.toNat [MOD primeP] :=
  ((Nat.mod_modEq _ _).mul_right _).trans (mul_rInv_modEq e.toNat)

/-- R100: a reduced value is the Montgomery form of its canonical form. -/
theorem mont_can {e : Elem} (h : Reduced e) : mont (can e) = e := (eq_mont_of_modEq h (can_modEq e).symm).symm

/-- R100, the other direction: `can` undoes `mont` because `mont` is injective on [0, p). -/
theorem can_mont {x : Nat} (h : x < primeP) : can (mont x) = x := by
  have hsame : can (mont x) ≡ x [MOD primeP] := (mont_eq_mont_iff _ _).1 (mont_can (mont_reduced x))
  exact hsame.eq_of_lt_of_lt (can_lt _) h

/-! #### The REDC input of TOCAN (R103) -/

theorem widen_value (e : Elem) : (widen e).value = e.toNat := by
  simp only [widen, Accumulator.value, limb_zero, Nat.zero_mul, Nat.add_zero, limbs_value]

theorem redc_widen {e : Elem} (h : Reduced e) : redc Config.engine invWord (widen e) = BitVec.ofNat 128 (can e) := by
  have hbound : (widen e).value < primeP * 2 ^ 128 := by
    rw [widen_value]
    exact Nat.lt_of_lt_of_le h (Nat.le_mul_of_pos_right _ (by decide))
  apply BitVec.eq_of_toNat_eq
  rw [redc_engine_toNat rfl hbound, widen_value, ofNat_can_toNat, can]

/-! #### The two commands -/

theorem exec_fromcan (rd ra : Reg) (s : State) : exec (.fromcan rd ra) s = execFromcan rd ra s := rfl

theorem exec_tocan (rd ra : Reg) (s : State) : exec (.tocan rd ra) s = execTocan rd ra s := rfl

section conversions
variable {rd ra : Reg} {s : State} {v : Elem}

theorem exec_fromcan_not_ready (hready : s.ready = false) : exec (.fromcan rd ra) s = .next (afterError s 2) := by
  rw [exec_fromcan, execFromcan, runCommand_not_ready hready]

theorem exec_fromcan_of_not_reduced (hready : s.ready = true) (h : ¬Reduced (s.f.get ra)) :
    exec (.fromcan rd ra) s = .next (afterError s 4) := by
  rw [exec_fromcan, execFromcan]
  refine runCommand_error (e := .range) hready ?_
  rw [readCanon_of_not_reduced h]
  rfl

theorem exec_fromcan_of_reduced (hready : s.ready = true) (hconstants : ConstantsDerived s) (hread : s.f.get ra = v)
    (h : Reduced v) : exec (.fromcan rd ra) s = .next (afterWrite s rd (mont v.toNat)) := by
  subst hread
  obtain ⟨hinv, -, hr2, -, -⟩ := hconstants.afterInit hready
  rw [exec_fromcan, execFromcan]
  refine runCommand_ok hready ?_
  rw [readCanon_of_reduced h, ← montmul_montTwo h, hinv, hr2]
  rfl

theorem exec_tocan_not_ready (hready : s.ready = false) : exec (.tocan rd ra) s = .next (afterError s 2) := by
  rw [exec_tocan, execTocan, runCommand_not_ready hready]

theorem exec_tocan_of_not_reduced (hready : s.ready = true) (h : ¬Reduced (s.f.get ra)) :
    exec (.tocan rd ra) s = .next (afterError s 5) := by
  rw [exec_tocan, execTocan]
  refine runCommand_error (e := .contract) hready ?_
  rw [readMont_of_not_reduced h]
  rfl

theorem exec_tocan_of_reduced (hready : s.ready = true) (hconstants : ConstantsDerived s) (hread : s.f.get ra = v)
    (h : Reduced v) : exec (.tocan rd ra) s = .next (afterWrite s rd (BitVec.ofNat 128 (can v))) := by
  subst hread
  obtain ⟨hinv, -, -, -, -⟩ := hconstants.afterInit hready
  rw [exec_tocan, execTocan]
  refine runCommand_ok hready ?_
  rw [readMont_of_reduced h, ← redc_widen h, hinv]
  rfl

end conversions

/-- Settles O12: the word by its fields, each end of FROMCAN by its operand check; `x · R2` reduces to the Montgomery form
(`montmul_montTwo`). -/
theorem fromcanCommand : Obligations.FromcanCommand := fun _ _ _ =>
  ⟨decode_formatU (op := 0x10) rfl, exec_fromcan_not_ready, exec_fromcan_of_not_reduced,
    fun hready hconstants => exec_fromcan_of_reduced hready hconstants rfl⟩

/-- Settles O13: as for FROMCAN, with the value itself as the REDC input (`redc_widen`). -/
theorem tocanCommand : Obligations.TocanCommand := fun _ _ _ =>
  ⟨decode_formatU (op := 0x11) rfl, exec_tocan_not_ready, exec_tocan_of_not_reduced,
    fun hready hconstants => exec_tocan_of_reduced hready hconstants rfl⟩

/-- Settles O31: the first command leaves its reduced result and the constants for the second (R104), and `mont` and `can`
undo each other on [0, p). -/
theorem conversionRoundTrips : Obligations.ConversionRoundTrips := by
  intro rd rd' ra s hready hconstants hreduced
  have hderived := constantsDerived_afterWrite hconstants rd
  constructor
  · refine ⟨_, _, exec_fromcan_of_reduced hready hconstants rfl hreduced,
      exec_tocan_of_reduced hready (hderived _) (get_set_same ..) (mont_reduced _), ?_⟩
    rw [afterWrite_f, get_set_same, can_mont hreduced, BitVec.ofNat_toNat, BitVec.setWidth_eq]
  · refine ⟨_, _, exec_tocan_of_reduced hready hconstants rfl hreduced,
      exec_fromcan_of_reduced hready (hderived _) (get_set_same ..) (ofNat_can_reduced _), ?_⟩
    rw [afterWrite_f, get_set_same, ofNat_can_toNat, mont_can hreduced]

end Sys2Proof.Machine

/-! ### MMUL and the REDC engine (43_mmul_redc.md)

The two rounds together add one multiple of p to the accumulator, by a multiplier of two limbs. That multiplier is the only one
that clears the two low limbs, so it is the one of the one-word formula with N' (R117). -/

namespace Sys2Proof.Machine

/-- Settles O22: the rows add up to the product, which leaves position 4 empty. -/
theorem mulwideIsTheExactProduct : Obligations.MulwideIsTheExactProduct :=
  fun a b => ⟨mulwide_value a b, mulwide_t4 a b⟩

/-- Settles O23, by the exactness of each row. -/
theorem reductionRoundsDropNoCarry : Obligations.ReductionRoundsDropNoCarry := redcRounds_value

section bounds
variable {c : Config} {inv : Limb} {t : Accumulator}

/-- The value handed to the conditional subtraction is below 2p (R115 (c)). -/
theorem redcRounds_high_lt (hinv : loLimb c.p * inv = -1) (ht4 : t.t4 = 0) (hbound : t.value < c.p.toNat * 2 ^ 128) :
    (redcRounds c inv t).high < 2 * c.p.toNat := by
  have hlt := redcRounds_lt (inv := inv) ht4 hbound
  rw [redcRounds_value_eq_high hinv] at hlt
  exact Nat.lt_of_mul_lt_mul_right hlt

/-- Position 4 is one bit, because 2p has 129 bits (R111, R115 (c)). -/
theorem redcRounds_t4_le_one (hinv : loLimb c.p * inv = -1) (ht4 : t.t4 = 0) (hbound : t.value < c.p.toNat * 2 ^ 128) :
    (redcRounds c inv t).t4.toNat ≤ 1 := by
  have hhigh := redcRounds_high_lt hinv ht4 hbound
  have hp := c.p.isLt
  rw [Accumulator.high] at hhigh
  omega

end bounds

/-- Settles O24: INV·p[0] = −1 cancels the limb of each round, and the bound on the sum leaves one bit for position 4. -/
theorem reductionRoundsZeroTheirLimbs : Obligations.ReductionRoundsZeroTheirLimbs := fun _ _ _ hinv ht4 hbound =>
  ⟨redcRound0_t0 hinv, redcRounds_t0 hinv, redcRounds_t1 hinv, redcRounds_t4_le_one hinv ht4 hbound,
    redcRounds_lt ht4 hbound⟩

/-! #### The one-word formula (R117) -/

/-- If `p·n ≡ −1`, the multiple of p that clears T is `T·n`, modulo B. -/
theorem modEq_mul_of_add_mul_modEq_zero {B T m p n : Nat} (hn : p * n + 1 ≡ 0 [MOD B]) (h : T + m * p ≡ 0 [MOD B]) :
    m ≡ T * n [MOD B] := by
  have hleft : m + m * p * n ≡ 0 [MOD B] :=
    calc m + m * p * n = m * (p * n + 1) := by ring
      _ ≡ m * 0 [MOD B] := hn.mul_left m
  have hright : T * n + m * p * n ≡ 0 [MOD B] :=
    calc T * n + m * p * n = (T + m * p) * n := by ring
      _ ≡ 0 * n [MOD B] := h.mul_right n
      _ = 0 := Nat.zero_mul n
  exact Nat.ModEq.add_right_cancel' _ (hleft.trans hright.symm)

/-- The two round multipliers as one number, `m0 + m1·2^64` (R115 (b)). -/
def roundMultipliers (c : Config) (inv : Limb) (t : Accumulator) : Nat :=
  (roundMultiplier inv t.t0).toNat + (roundMultiplier inv (redcRound0 c inv t).t1).toNat * 2 ^ 64

theorem roundMultipliers_lt (c : Config) (inv : Limb) (t : Accumulator) : roundMultipliers c inv t < 2 ^ 128 := by
  have h0 := (roundMultiplier inv t.t0).isLt
  have h1 := (roundMultiplier inv (redcRound0 c inv t).t1).isLt
  rw [roundMultipliers]
  omega

section oneWordFormula
variable {c : Config} {inv : Limb} {t : Accumulator} {n : Nat}

/-- T' = T + m·p is divisible by 2^128, and its quotient is the value before the subtraction (R115 (b)). -/
theorem add_roundMultipliers_mul (hinv : loLimb c.p * inv = -1) (ht4 : t.t4 = 0) :
    t.value + roundMultipliers c inv t * c.p.toNat = (redcRounds c inv t).high * 2 ^ 128 := by
  rw [← redcRounds_value_eq_high hinv, redcRounds_value c inv t ht4, roundMultipliers]

/-- The limb procedure computes the multiplier of the one-word formula (R117). -/
theorem roundMultipliers_eq (hinv : loLimb c.p * inv = -1) (ht4 : t.t4 = 0)
    (hn : c.p.toNat * n % 2 ^ 128 = 2 ^ 128 - 1) :
    roundMultipliers c inv t = t.value % 2 ^ 128 * n % 2 ^ 128 := by
  have hneg : c.p.toNat * n + 1 ≡ 0 [MOD 2 ^ 128] := by
    rw [Nat.ModEq]
    omega
  have hclears : t.value + roundMultipliers c inv t * c.p.toNat ≡ 0 [MOD 2 ^ 128] := by
    rw [add_roundMultipliers_mul hinv ht4]
    exact Nat.modEq_zero_iff_dvd.2 (Nat.dvd_mul_left ..)
  calc roundMultipliers c inv t
      = t.value * n % 2 ^ 128 :=
        (Nat.mod_eq_of_modEq (modEq_mul_of_add_mul_modEq_zero hneg hclears).symm (roundMultipliers_lt c inv t)).symm
    _ = t.value % 2 ^ 128 * n % 2 ^ 128 := (Nat.mod_mul_mod ..).symm

/-- Below 2p, one conditional subtraction is the remainder. -/
theorem mod_eq_sub_if {v p : Nat} (h : v < 2 * p) : v % p = if p ≤ v then v - p else v := by
  split
  case isTrue hle => rw [Nat.mod_eq_sub_mod hle, Nat.mod_eq_of_lt (by omega)]
  case isFalse hlt => exact Nat.mod_eq_of_lt (by omega)

/-- `redc` is the one-word formula with N' (R117). -/
theorem redc_eq_oneWordFormula (hinv : loLimb c.p * inv = -1) (ht4 : t.t4 = 0) (hbound : t.value < c.p.toNat * 2 ^ 128)
    (hn : c.p.toNat * n % 2 ^ 128 = 2 ^ 128 - 1) :
    (redc c inv t).toNat =
      (let v := (t.value + t.value % 2 ^ 128 * n % 2 ^ 128 * c.p.toNat) / 2 ^ 128
       if c.p.toNat ≤ v then v - c.p.toNat else v) := by
  have hquotient : (t.value + t.value % 2 ^ 128 * n % 2 ^ 128 * c.p.toNat) / 2 ^ 128 = (redcRounds c inv t).high := by
    rw [← roundMultipliers_eq hinv ht4 hn, add_roundMultipliers_mul hinv ht4, Nat.mul_div_cancel _ (by decide)]
  rw [hquotient, redc_toNat hinv ht4 hbound, mod_eq_sub_if (redcRounds_high_lt hinv ht4 hbound)]

end oneWordFormula

/-- `montmul` as a number (R117); one reduced operand is enough for the bound of `redc`. -/
theorem montmul_toNat {a : Elem} (ha : Reduced a) (b : Elem) :
    (montmul Config.engine invWord a b).toNat = a.toNat * b.toNat * rInv % primeP := by
  rw [montmul, redc_engine_toNat (mulwide_t4 a b) (mulwide_bound ha b), mulwide_value]

/-- Settles O25: for every modulus, `redc` is the reduced quotient by 2^128 and the one-word formula; in this engine R⁻¹ is
that quotient. -/
theorem redcIsMontgomeryReduction : Obligations.RedcIsMontgomeryReduction :=
  ⟨fun _ _ _ hinv ht4 hbound => ⟨redc_lt hinv ht4 hbound, redc_modEq hinv ht4 hbound,
      fun _ _ hn => redc_eq_oneWordFormula hinv ht4 hbound hn⟩,
    fun _ => redc_engine_toNat, fun _ b ha _ => montmul_toNat ha b, montmul_mont⟩

/-! #### The algebra of the Montgomery product (R118) -/

theorem mont_zero : mont 0 = 0 := rfl

theorem montTwo_reduced : Reduced montTwo := by decide

theorem montmul_montOne {a : Elem} (ha : Reduced a) : montmul Config.engine invWord a montOne = a := by
  rw [← mont_can ha, ← mont_one, montmul_mont, Nat.mul_one]

theorem montmul_zero {a : Elem} (ha : Reduced a) : montmul Config.engine invWord a 0 = 0 := by
  rw [← mont_can ha, ← mont_zero, montmul_mont, Nat.mul_zero]

theorem montmul_comm {a b : Elem} (ha : Reduced a) (hb : Reduced b) :
    montmul Config.engine invWord a b = montmul Config.engine invWord b a := by
  rw [← mont_can ha, ← mont_can hb, montmul_mont, montmul_mont, Nat.mul_comm]

theorem montmul_assoc {a b c : Elem} (ha : Reduced a) (hb : Reduced b) (hc : Reduced c) :
    montmul Config.engine invWord (montmul Config.engine invWord a b) c =
      montmul Config.engine invWord a (montmul Config.engine invWord b c) := by
  rw [← mont_can ha, ← mont_can hb, ← mont_can hc, montmul_mont, montmul_mont, montmul_mont, montmul_mont, Nat.mul_assoc]

/-- Multiplying by the word 1 leaves the Montgomery form (R103, R118). -/
theorem montmul_one_toNat {a : Elem} (ha : Reduced a) : (montmul Config.engine invWord a 1).toNat = can a := by
  rw [montmul_toNat ha, show (1 : Elem).toNat = 1 from rfl, Nat.mul_one, can]

theorem montmul_montTwo_one : montmul Config.engine invWord montTwo 1 = montOne := by
  rw [← mont_one]
  apply montmul_eq_mont montTwo_reduced
  rw [montTwo_toNat, show (1 : Elem).toNat = 1 from rfl, Nat.mul_one]
  calc 2 ^ 256 % primeP ≡ 2 ^ 256 [MOD primeP] := Nat.mod_modEq _ _
    _ = 1 * 2 ^ 128 * 2 ^ 128 := by norm_num

/-- Settles O26: `mont` carries products of numbers to Montgomery products, and every reduced value is a `mont`. -/
theorem montmulAlgebra : Obligations.MontmulAlgebra := fun _ _ _ ha hb hc =>
  ⟨montmul_comm ha hb, montmul_assoc ha hb hc, montmul_montOne ha, montmul_zero ha, montmul_montOne (mont_reduced 1),
    montmul_montTwo_one, montmul_one_toNat ha⟩

/-! #### The command (R116) -/

/-- The word of a command of format T, written out from R65. -/
theorem decode_formatT {i : Instr} {op : BitVec 8} {rd ra rb : Reg} (h : commandFields i = ⟨op, rd, ra, rb⟩) :
    decode (BitVec.ofNat 64 (op.toNat + rd.val * 2 ^ 8 + ra.val * 2 ^ 12 + rb.val * 2 ^ 16)) = .ok i := by
  rw [decode_eq_ok_iff, cmdValue_eq_value, h, WordFields.value]

section operandPair
variable {ra rb : Reg} {s : State} (op : Elem → Elem → Elem)

/-- The pseudocode of a command with two Montgomery sources, both reduced (R64). -/
theorem readMontPair_of_reduced (ha : Reduced (s.f.get ra)) (hb : Reduced (s.f.get rb)) :
    (do let a ← readMont s ra; let b ← readMont s rb; return op a b : Except ErrorCode Elem) =
      .ok (op (s.f.get ra) (s.f.get rb)) := by
  rw [readMont_of_reduced ha, readMont_of_reduced hb]
  rfl

/-- Whichever source fails its check, the error is the same (R164). -/
theorem readMontPair_of_not_reduced (h : ¬Reduced (s.f.get ra) ∨ ¬Reduced (s.f.get rb)) :
    (do let a ← readMont s ra; let b ← readMont s rb; return op a b : Except ErrorCode Elem) = .error .contract := by
  by_cases ha : Reduced (s.f.get ra)
  · rw [readMont_of_reduced ha, readMont_of_not_reduced (h.resolve_left (not_not_intro ha))]
    rfl
  · rw [readMont_of_not_reduced ha]
    rfl

end operandPair

theorem exec_mmul (rd ra rb : Reg) (s : State) : exec (.mmul rd ra rb) s = execMmul rd ra rb s := rfl

section mmul
variable {rd ra rb : Reg} {s : State}

theorem exec_mmul_not_ready (hready : s.ready = false) : exec (.mmul rd ra rb) s = .next (afterError s 2) := by
  rw [exec_mmul, execMmul, runCommand_not_ready hready]

theorem exec_mmul_of_not_reduced (hready : s.ready = true) (h : ¬Reduced (s.f.get ra) ∨ ¬Reduced (s.f.get rb)) :
    exec (.mmul rd ra rb) s = .next (afterError s 5) := by
  rw [exec_mmul, execMmul]
  exact runCommand_error (e := .contract) hready (readMontPair_of_not_reduced _ h)

theorem exec_mmul_of_reduced (hready : s.ready = true) (hconstants : ConstantsDerived s) (ha : Reduced (s.f.get ra))
    (hb : Reduced (s.f.get rb)) : exec (.mmul rd ra rb) s =
      .next (afterWrite s rd (montmul Config.engine invWord (s.f.get ra) (s.f.get rb))) := by
  obtain ⟨hinv, -, -, -, -⟩ := hconstants.afterInit hready
  rw [exec_mmul, execMmul, ← hinv]
  exact runCommand_ok hready (readMontPair_of_reduced _ ha hb)

end mmul

/-- The product as a register value (R116). -/
theorem montmul_eq_ofNat {a : Elem} (ha : Reduced a) (b : Elem) :
    montmul Config.engine invWord a b = BitVec.ofNat 128 (a.toNat * b.toNat * rInv % primeP) := by
  rw [← montmul_toNat ha, BitVec.ofNat_toNat, BitVec.setWidth_eq]

/-- Settles O14: the word by its fields, each end of MMUL by its two operand checks, the value by `montmul_eq_ofNat`. -/
theorem mmulCommand : Obligations.MmulCommand := by
  intro rd ra rb s
  refine ⟨decode_formatT (op := 0x20) rfl, exec_mmul_not_ready, exec_mmul_of_not_reduced, ?_⟩
  intro hready hconstants ha hb
  rw [← montmul_eq_ofNat ha]
  exact exec_mmul_of_reduced hready hconstants ha hb

end Sys2Proof.Machine

/-! ### FADD, FSUB and FNEG (44_addsub.md)

The adder reads no derived constant, so the commands need only READY. R is a factor of every Montgomery form, so sums and
differences of forms are the forms of sums and differences (R131). -/

namespace Sys2Proof.Machine

/-- Adding p first keeps the difference of numbers from being cut off at 0. -/
theorem add_sub_add_modEq (x : Nat) {y : Nat} (h : y < primeP) : x + primeP - y + y ≡ x [MOD primeP] := by
  rw [Nat.sub_add_cancel (h.le.trans (Nat.le_add_left _ _))]
  exact Nat.add_modEq_right

section adder
variable {a b : Elem}

/-- The sum as a register value (R125). -/
theorem fadd_eq_ofNat (ha : Reduced a) (hb : Reduced b) :
    fadd Config.engine a b = BitVec.ofNat 128 ((a.toNat + b.toNat) % primeP) :=
  (BitVec.toNat_eq_nat.1 (fadd_toNat Config.engine a b ha hb)).2

/-- The difference as a register value (R127). -/
theorem fsub_eq_ofNat (ha : Reduced a) (hb : Reduced b) :
    fsub Config.engine a b = BitVec.ofNat 128 ((a.toNat + primeP - b.toNat) % primeP) :=
  (BitVec.toNat_eq_nat.1 (fsub_toNat Config.engine a b ha hb)).2

/-- The negation as a register value (R129). -/
theorem fneg_eq_ofNat (ha : Reduced a) : fneg Config.engine a = BitVec.ofNat 128 ((primeP - a.toNat) % primeP) :=
  (BitVec.toNat_eq_nat.1 (fneg_toNat Config.engine a ha)).2

theorem fadd_reduced (ha : Reduced a) (hb : Reduced b) : Reduced (fadd Config.engine a b) := by
  rw [Reduced, fadd_toNat _ _ _ ha hb]
  exact Nat.mod_lt _ (by decide)

theorem fsub_reduced (ha : Reduced a) (hb : Reduced b) : Reduced (fsub Config.engine a b) := by
  rw [Reduced, fsub_toNat _ _ _ ha hb]
  exact Nat.mod_lt _ (by decide)

theorem fadd_modEq (ha : Reduced a) (hb : Reduced b) :
    (fadd Config.engine a b).toNat ≡ a.toNat + b.toNat [MOD primeP] := by
  rw [fadd_toNat _ _ _ ha hb]
  exact Nat.mod_modEq _ _

/-- The difference by what it adds to the subtrahend, so that no subtraction of numbers stands in the congruence. -/
theorem fsub_add_modEq (ha : Reduced a) (hb : Reduced b) :
    (fsub Config.engine a b).toNat + b.toNat ≡ a.toNat [MOD primeP] := by
  rw [fsub_toNat _ _ _ ha hb, primeP_eq]
  calc (a.toNat + primeP - b.toNat) % primeP + b.toNat
      ≡ a.toNat + primeP - b.toNat + b.toNat [MOD primeP] := (Nat.mod_modEq _ _).add_right _
    _ ≡ a.toNat [MOD primeP] := add_sub_add_modEq a.toNat hb

end adder

/-! #### The adder on the two forms (R131) -/

theorem mont_modEq (x : Nat) : (mont x).toNat ≡ x * 2 ^ 128 [MOD primeP] := by
  rw [mont_toNat]
  exact Nat.mod_modEq _ _

theorem fadd_mont (x y : Nat) : fadd Config.engine (mont x) (mont y) = mont (x + y) := by
  apply eq_mont_of_modEq (fadd_reduced (mont_reduced x) (mont_reduced y))
  calc (fadd Config.engine (mont x) (mont y)).toNat
      ≡ (mont x).toNat + (mont y).toNat [MOD primeP] := fadd_modEq (mont_reduced x) (mont_reduced y)
    _ ≡ x * 2 ^ 128 + y * 2 ^ 128 [MOD primeP] := (mont_modEq x).add (mont_modEq y)
    _ = (x + y) * 2 ^ 128 := (Nat.add_mul ..).symm

/-- The difference of two forms is the form of any `z` that stands for `x − y`. -/
theorem fsub_mont {x y z : Nat} (h : z + y ≡ x [MOD primeP]) : fsub Config.engine (mont x) (mont y) = mont z := by
  apply eq_mont_of_modEq (fsub_reduced (mont_reduced x) (mont_reduced y))
  apply Nat.ModEq.add_right_cancel (mont_modEq y)
  calc (fsub Config.engine (mont x) (mont y)).toNat + (mont y).toNat
      ≡ (mont x).toNat [MOD primeP] := fsub_add_modEq (mont_reduced x) (mont_reduced y)
    _ ≡ x * 2 ^ 128 [MOD primeP] := mont_modEq x
    _ ≡ (z + y) * 2 ^ 128 [MOD primeP] := (h.mul_right _).symm
    _ = z * 2 ^ 128 + y * 2 ^ 128 := Nat.add_mul ..

/-- Negation is subtraction from the form of 0 (R129). -/
theorem fneg_mont {x z : Nat} (h : z + x ≡ 0 [MOD primeP]) : fneg Config.engine (mont x) = mont z := by
  rw [fneg, ← mont_zero, fsub_mont h]

/-- A canonical value fits in a register. -/
theorem ofNat_toNat_of_lt {x : Nat} (h : x < primeP) : (BitVec.ofNat 128 x).toNat = x := by
  rw [BitVec.toNat_ofNat, Nat.mod_eq_of_lt (h.trans primeP_lt)]

theorem ofNat_reduced {x : Nat} (h : x < primeP) : Reduced (BitVec.ofNat 128 x) := by
  rwa [Reduced, ofNat_toNat_of_lt h]

/-- Settles O28: on Montgomery forms by `fadd_mont`, `fsub_mont` and `fneg_mont`, whose congruences hold because `x` and `y`
are below p; on canonical forms by what the adder computes on reduced operands. -/
theorem adderIsFormIndependent : Obligations.AdderIsFormIndependent := by
  intro x y hx hy
  have hnegation : primeP - x + x ≡ 0 [MOD primeP] := by
    rw [Nat.sub_add_cancel hx.le]
    exact Nat.modulus_modEq_zero
  refine ⟨fadd_mont x y, fsub_mont (add_sub_add_modEq x hy), fneg_mont hnegation, ?_, ?_, ?_⟩
  · rw [fadd_toNat _ _ _ (ofNat_reduced hx) (ofNat_reduced hy), ofNat_toNat_of_lt hx, ofNat_toNat_of_lt hy, primeP_eq]
  · rw [fsub_toNat _ _ _ (ofNat_reduced hx) (ofNat_reduced hy), ofNat_toNat_of_lt hx, ofNat_toNat_of_lt hy, primeP_eq]
  · rw [fneg_toNat _ _ (ofNat_reduced hx), ofNat_toNat_of_lt hx, primeP_eq]

/-! #### The three commands (R126, R128, R130) -/

/-- The pseudocode that FADD and FSUB share: check both sources, then `op`. -/
def montBinary (op : Elem → Elem → Elem) (ra rb : Reg) (s : State) : Except ErrorCode Elem := do
  let a ← readMont s ra
  let b ← readMont s rb
  return op a b

theorem exec_fadd (rd ra rb : Reg) (s : State) :
    exec (.fadd rd ra rb) s = runCommand rd (montBinary (fadd Config.engine) ra rb) s := rfl

theorem exec_fsub (rd ra rb : Reg) (s : State) :
    exec (.fsub rd ra rb) s = runCommand rd (montBinary (fsub Config.engine) ra rb) s := rfl

theorem exec_fneg (rd ra : Reg) (s : State) : exec (.fneg rd ra) s = execFneg rd ra s := rfl

section commands
variable {op : Elem → Elem → Elem} {rd ra rb : Reg} {s : State}

theorem runCommand_montBinary_of_not_reduced (hready : s.ready = true)
    (h : ¬Reduced (s.f.get ra) ∨ ¬Reduced (s.f.get rb)) :
    runCommand rd (montBinary op ra rb) s = .next (afterError s 5) :=
  runCommand_error (e := .contract) hready (readMontPair_of_not_reduced op h)

theorem runCommand_montBinary_of_reduced (hready : s.ready = true) (ha : Reduced (s.f.get ra))
    (hb : Reduced (s.f.get rb)) :
    runCommand rd (montBinary op ra rb) s = .next (afterWrite s rd (op (s.f.get ra) (s.f.get rb))) :=
  runCommand_ok hready (readMontPair_of_reduced op ha hb)

theorem exec_fneg_not_ready (hready : s.ready = false) : exec (.fneg rd ra) s = .next (afterError s 2) := by
  rw [exec_fneg, execFneg, runCommand_not_ready hready]

theorem exec_fneg_of_not_reduced (hready : s.ready = true) (h : ¬Reduced (s.f.get ra)) :
    exec (.fneg rd ra) s = .next (afterError s 5) := by
  rw [exec_fneg, execFneg]
  refine runCommand_error (e := .contract) hready ?_
  rw [readMont_of_not_reduced h]
  rfl

theorem exec_fneg_of_reduced (hready : s.ready = true) (h : Reduced (s.f.get ra)) :
    exec (.fneg rd ra) s = .next (afterWrite s rd (fneg Config.engine (s.f.get ra))) := by
  rw [exec_fneg, execFneg]
  refine runCommand_ok hready ?_
  rw [readMont_of_reduced h]
  rfl

end commands

/-- Settles O15: the word by its fields, each end of FADD by its two operand checks, the sum by `fadd_eq_ofNat`. -/
theorem faddCommand : Obligations.FaddCommand := by
  intro rd ra rb s
  rw [exec_fadd]
  refine ⟨decode_formatT (op := 0x30) rfl, runCommand_not_ready, runCommand_montBinary_of_not_reduced, ?_⟩
  intro hready ha hb
  rw [← fadd_eq_ofNat ha hb]
  exact runCommand_montBinary_of_reduced hready ha hb

/-- Settles O16: as for FADD, with the difference by `fsub_eq_ofNat`. -/
theorem fsubCommand : Obligations.FsubCommand := by
  intro rd ra rb s
  rw [exec_fsub]
  refine ⟨decode_formatT (op := 0x31) rfl, runCommand_not_ready, runCommand_montBinary_of_not_reduced, ?_⟩
  intro hready ha hb
  rw [← fsub_eq_ofNat ha hb]
  exact runCommand_montBinary_of_reduced hready ha hb

/-- Settles O17: the word by its fields, each end of FNEG by its one operand check, the value by `fneg_eq_ofNat`. -/
theorem fnegCommand : Obligations.FnegCommand := by
  intro rd ra s
  refine ⟨decode_formatU (op := 0x32) rfl, exec_fneg_not_ready, exec_fneg_of_not_reduced, ?_⟩
  intro hready ha
  rw [← fneg_eq_ofNat ha]
  exact exec_fneg_of_reduced hready ha

end Sys2Proof.Machine

/-! ### FPOW and FINV (45_pow_inverse.md)

`fpow` on a Montgomery form is the Montgomery form of the power of numbers, for every exponent; the laws of R138 are those of
powers of numbers. What is said about the inverse and about exponents modulo p − 1 rests on p being prime (R20). -/

namespace Sys2Proof.Machine

/-! #### Exponentiation on Montgomery forms (R136) -/

/-- The exponent bit that the loop takes next stands on top of the bits that remain. -/
theorem toNat_mod_two_pow_succ (e : Elem) (i : Nat) :
    e.toNat % 2 ^ (i + 1) = 2 ^ i * (e.getLsbD i).toNat + e.toNat % 2 ^ i := by
  rw [← BitVec.testBit_toNat, Nat.toNat_testBit, Nat.mod_pow_succ, Nat.add_comm]

/-- With `n` exponent bits to go, the loop squares what it has `n` times and multiplies the base in by those bits. -/
theorem fpowLoop_mont (x : Nat) (e : Elem) (n y : Nat) :
    fpowLoop Config.engine invWord (mont x) e n (mont y) = mont (y ^ 2 ^ n * x ^ (e.toNat % 2 ^ n)) := by
  induction n generalizing y with
  | zero => rw [fpowLoop, pow_zero, pow_one, Nat.mod_one, pow_zero, mul_one]
  | succ i ih =>
    have hsquare : (y * y) ^ 2 ^ i = y ^ 2 ^ (i + 1) := by rw [← pow_two, ← pow_mul, pow_succ']
    rw [fpowLoop, toNat_mod_two_pow_succ]
    simp only [montmul_mont]
    cases e.getLsbD i with
    | false => rw [if_neg Bool.false_ne_true, ih, hsquare, Bool.toNat_false, Nat.mul_zero, Nat.zero_add]
    | true => rw [if_pos rfl, ih, mul_pow, hsquare, Bool.toNat_true, Nat.mul_one, pow_add x, mul_assoc]

theorem fpow_mont (x : Nat) (e : Elem) : fpow Config.engine invWord montOne (mont x) e = mont (x ^ e.toNat) := by
  rw [fpow, ← mont_one, fpowLoop_mont, one_pow, one_mul, Config.expWidth, Nat.mod_eq_of_lt e.isLt]

/-- R137: the power of a reduced value, through its canonical form. -/
theorem fpow_of_reduced {b : Elem} (h : Reduced b) (e : Elem) :
    fpow Config.engine invWord montOne b e = mont (can b ^ e.toNat) := by
  rw [← fpow_mont, mont_can h]

/-! #### p is prime (R20)

Lucas's criterion with the generator 59 of R151: it has order p − 1, because no prime factor of p − 1 can be left out. -/

theorem primeP_sub_one : primeP - 1 = 2 ^ 108 * 3 * 5 ^ 2 * 11 * 31 * 41 := by norm_num [primeP]

theorem primeFactors_primeP_sub_one {q : Nat} (hq : q.Prime) (h : q ∣ primeP - 1) :
    q = 2 ∨ q = 3 ∨ q = 5 ∨ q = 11 ∨ q = 31 ∨ q = 41 := by
  have eq_of_dvd {r : Nat} (hr : r.Prime) : q ∣ r ↔ q = r := Nat.prime_dvd_prime_iff_eq hq hr
  rw [primeP_sub_one, hq.dvd_mul, hq.dvd_mul, hq.dvd_mul, hq.dvd_mul, hq.dvd_mul, hq.prime.dvd_pow_iff_dvd (by decide),
    hq.prime.dvd_pow_iff_dvd (by decide), eq_of_dvd Nat.prime_two, eq_of_dvd Nat.prime_three, eq_of_dvd Nat.prime_five,
    eq_of_dvd (by norm_num), eq_of_dvd (by norm_num), eq_of_dvd (by norm_num)] at h
  tauto

theorem generator_pow_primeP_sub_one : (59 : ZMod primeP) ^ (primeP - 1) = 1 := by
  rw [primeP]
  reduce_mod_char

theorem generator_pow_ne_one {q : Nat} (h : q = 2 ∨ q = 3 ∨ q = 5 ∨ q = 11 ∨ q = 31 ∨ q = 41) :
    (59 : ZMod primeP) ^ ((primeP - 1) / q) ≠ 1 := by
  rw [primeP]
  rcases h with rfl | rfl | rfl | rfl | rfl | rfl
  all_goals
    reduce_mod_char
    decide

theorem primeP_prime : primeP.Prime :=
  lucas_primality primeP 59 generator_pow_primeP_sub_one fun _ hq h =>
    generator_pow_ne_one (primeFactors_primeP_sub_one hq h)

/-- Fermat: modulo a prime, exponents of a unit count modulo `p − 1`. -/
theorem pow_modEq_pow_of_modEq {p x e f : Nat} (hp : p.Prime) (hx : x.Coprime p) (h : e ≡ f [MOD p - 1]) :
    x ^ e ≡ x ^ f [MOD p] := by
  have reduceExponent (n : Nat) : x ^ n ≡ x ^ (n % (p - 1)) [MOD p] :=
    calc x ^ n = (x ^ (p - 1)) ^ (n / (p - 1)) * x ^ (n % (p - 1)) := by rw [← pow_mul, ← pow_add, Nat.div_add_mod]
      _ ≡ 1 ^ (n / (p - 1)) * x ^ (n % (p - 1)) [MOD p] :=
        ((Nat.ModEq.pow_card_sub_one_eq_one hp hx).pow _).mul_right _
      _ = x ^ (n % (p - 1)) := by rw [one_pow, one_mul]
  calc x ^ e ≡ x ^ (e % (p - 1)) [MOD p] := reduceExponent e
    _ = x ^ (f % (p - 1)) := by rw [h]
    _ ≡ x ^ f [MOD p] := (reduceExponent f).symm

theorem can_ne_zero {a : Elem} (h : Reduced a) (hne : a ≠ 0) : can a ≠ 0 := by
  intro hzero
  rw [← mont_can h, hzero, mont_zero] at hne
  exact hne rfl

theorem can_coprime {a : Elem} (h : Reduced a) (hne : a ≠ 0) : (can a).Coprime primeP :=
  (Nat.coprime_of_lt_prime (can_ne_zero h hne) (can_lt a) primeP_prime).symm

/-! #### The laws of exponentiation (R138) -/

section laws
variable {b : Elem} (hb : Reduced b) (e f : Elem)
include hb

theorem fpow_add (h : e.toNat + f.toNat < 2 ^ 128) : fpow Config.engine invWord montOne b (e + f) =
    montmul Config.engine invWord (fpow Config.engine invWord montOne b e) (fpow Config.engine invWord montOne b f) := by
  rw [fpow_of_reduced hb, fpow_of_reduced hb, fpow_of_reduced hb, montmul_mont, BitVec.toNat_add_of_lt h, pow_add]

/-- The product of the exponents may exceed a register. -/
theorem fpow_fpow : fpow Config.engine invWord montOne (fpow Config.engine invWord montOne b e) f =
    mont (can b ^ (e.toNat * f.toNat)) := by
  rw [fpow_of_reduced hb, fpow_mont, pow_mul]

theorem fpow_mul (h : e.toNat * f.toNat < 2 ^ 128) :
    fpow Config.engine invWord montOne (fpow Config.engine invWord montOne b e) f =
      fpow Config.engine invWord montOne b (e * f) := by
  rw [fpow_fpow hb, fpow_of_reduced hb, BitVec.toNat_mul_of_lt h]

theorem fpow_two : fpow Config.engine invWord montOne b 2 = montmul Config.engine invWord b b := by
  calc fpow Config.engine invWord montOne b 2
      = mont (can b ^ 2) := fpow_of_reduced hb 2
    _ = montmul Config.engine invWord (mont (can b)) (mont (can b)) := by rw [montmul_mont, pow_two]
    _ = montmul Config.engine invWord b b := by rw [mont_can hb]

theorem fpow_eq_of_modEq (hne : b ≠ 0) (h : e.toNat ≡ f.toNat [MOD primeP - 1]) :
    fpow Config.engine invWord montOne b e = fpow Config.engine invWord montOne b f := by
  rw [fpow_of_reduced hb, fpow_of_reduced hb, mont_eq_mont_iff]
  exact pow_modEq_pow_of_modEq primeP_prime (can_coprime hb hne) h

end laws

/-- Settles O29: powers of numbers, carried over by `fpow_of_reduced`; the last law is Fermat's. -/
theorem fpowLaws : Obligations.FpowLaws := fun _ e f hb =>
  ⟨fpow_add hb e f, fpow_mul hb e f, fpow_fpow hb e f, fpow_two hb, fpow_eq_of_modEq hb e f⟩

/-! #### The two commands (R137, R140) -/

/-- The pseudocode that FPOW and FINV share: check the base, then the rest of the command. -/
def montBase (ra : Reg) (rest : State → Elem → Except ErrorCode Elem) (s : State) : Except ErrorCode Elem := do
  let a ← readMont s ra
  rest s a

/-- FPOW after the check of its base: the exponent raises nothing. -/
def fpowRest (rb : Reg) (s : State) (base : Elem) : Except ErrorCode Elem :=
  .ok (fpow Config.engine s.inv s.r base (s.f.get rb))

/-- FINV after the check of its base (R140). -/
def finvRest (s : State) (a : Elem) : Except ErrorCode Elem := do
  if a = 0 then throw ErrorCode.divZero
  return fpow Config.engine s.inv s.r a (Config.engine.p - 2)

theorem finvRest_zero (s : State) : finvRest s 0 = .error .divZero := rfl

theorem finvRest_of_ne_zero (s : State) {a : Elem} (h : a ≠ 0) :
    finvRest s a = .ok (fpow Config.engine s.inv s.r a (Config.engine.p - 2)) := if_neg h

theorem exec_fpow (rd ra rb : Reg) (s : State) :
    exec (.fpow rd ra rb) s = runCommand rd (montBase ra (fpowRest rb)) s := rfl

theorem exec_finv (rd ra : Reg) (s : State) : exec (.finv rd ra) s = runCommand rd (montBase ra finvRest) s := rfl

/-- The constant exponent of FINV does not wrap. -/
theorem finvExponent_toNat : (Config.engine.p - 2).toNat = primeP - 2 := by decide

section powers
variable {rd ra rb : Reg} {s : State} {rest : State → Elem → Except ErrorCode Elem}

theorem montBase_of_reduced (h : Reduced (s.f.get ra)) : montBase ra rest s = rest s (s.f.get ra) := by
  rw [montBase, readMont_of_reduced h]
  rfl

theorem runCommand_montBase_of_not_reduced (hready : s.ready = true) (h : ¬Reduced (s.f.get ra)) :
    runCommand rd (montBase ra rest) s = .next (afterError s 5) := by
  refine runCommand_error (e := .contract) hready ?_
  rw [montBase, readMont_of_not_reduced h]
  rfl

/-- INIT's constants make the command's power that of R136. -/
theorem fpow_of_constants (hready : s.ready = true) (hconstants : ConstantsDerived s) {b : Elem} (h : Reduced b)
    (e : Elem) : fpow Config.engine s.inv s.r b e = mont (can b ^ e.toNat) := by
  obtain ⟨hinv, hr, -, -, -⟩ := hconstants.afterInit hready
  rw [hinv, hr, fpow_of_reduced h]

theorem exec_fpow_of_reduced (hready : s.ready = true) (hconstants : ConstantsDerived s) (h : Reduced (s.f.get ra)) :
    exec (.fpow rd ra rb) s = .next (afterWrite s rd (mont (can (s.f.get ra) ^ (s.f.get rb).toNat))) := by
  rw [exec_fpow]
  refine runCommand_ok hready ?_
  rw [montBase_of_reduced h, fpowRest, fpow_of_constants hready hconstants h]

/-- 0 is reduced, so the range check lets it through to the zero check (R167). -/
theorem exec_finv_zero (hready : s.ready = true) (h : s.f.get ra = 0) :
    exec (.finv rd ra) s = .next (afterError s 6) := by
  have hreduced : Reduced (s.f.get ra) := by rw [h]; decide
  rw [exec_finv]
  refine runCommand_error (e := .divZero) hready ?_
  rw [montBase_of_reduced hreduced, h, finvRest_zero]

theorem exec_finv_of_ne_zero (hready : s.ready = true) (hconstants : ConstantsDerived s) (h : Reduced (s.f.get ra))
    (hne : s.f.get ra ≠ 0) :
    exec (.finv rd ra) s = .next (afterWrite s rd (mont (can (s.f.get ra) ^ (primeP - 2)))) := by
  rw [exec_finv]
  refine runCommand_ok hready ?_
  rw [montBase_of_reduced h, finvRest_of_ne_zero s hne, fpow_of_constants hready hconstants h, finvExponent_toNat]

end powers

/-- Settles O18: the word by its fields, each end of FPOW by the check of its base, the value by `fpow_of_reduced`. -/
theorem fpowCommand : Obligations.FpowCommand := by
  intro rd ra rb s
  refine ⟨decode_formatT (op := 0x40) rfl, ?_, ?_, exec_fpow_of_reduced⟩ <;> rw [exec_fpow]
  · exact runCommand_not_ready
  · exact runCommand_montBase_of_not_reduced

/-- Settles O19: as for FPOW, with the zero check after the range check. -/
theorem finvCommand : Obligations.FinvCommand := by
  intro rd ra s
  refine ⟨decode_formatU (op := 0x41) rfl, ?_, ?_, exec_finv_zero, exec_finv_of_ne_zero⟩ <;> rw [exec_finv]
  · exact runCommand_not_ready
  · exact runCommand_montBase_of_not_reduced

/-- The power p − 2 is the inverse, by Fermat (R141). -/
theorem montmul_inverse {a : Elem} (h : Reduced a) (hne : a ≠ 0) :
    montmul Config.engine invWord a (mont (can a ^ (primeP - 2))) = montOne := by
  have hexponent : primeP - 2 + 1 = primeP - 1 := by decide
  calc montmul Config.engine invWord a (mont (can a ^ (primeP - 2)))
      = montmul Config.engine invWord (mont (can a)) (mont (can a ^ (primeP - 2))) := by rw [mont_can h]
    _ = mont (can a ^ (primeP - 1)) := by rw [montmul_mont, ← pow_succ', hexponent]
    _ = mont 1 := (mont_eq_mont_iff _ _).2 (Nat.ModEq.pow_card_sub_one_eq_one primeP_prime (can_coprime h hne))
    _ = montOne := mont_one

theorem redc_widen_montOne : redc Config.engine invWord (widen montOne) = 1 := by
  rw [← mont_one, redc_widen (mont_reduced 1), can_mont (by decide)]
  rfl

/-- Settles O30: the value that FINV writes is the power p − 2, whose product with the base is R (`montmul_inverse`), and
TOCAN of R is 1. -/
theorem finvIsTheInverse : Obligations.FinvIsTheInverse := by
  intro rd ra s hready hconstants hreduced hne
  obtain ⟨hinv, hr, -, -, -⟩ := hconstants.afterInit hready
  refine ⟨_, exec_finv_of_ne_zero hready hconstants hreduced hne, ?_, ?_⟩ <;>
    rw [hinv, montmul_inverse hreduced hne]
  · exact hr.symm
  · exact redc_widen_montOne

end Sys2Proof.Machine

/-! ### ROOT (46_root.md)

A root is a power of OMEGA by a power of two, and raising it to a power of two adds the two exponents. So R150 comes down to
what a base root's powers 2^31 and 2^32 are (R93). -/

namespace Sys2Proof.Machine

/-! #### The domain sizes (R148) -/

/-- Clearing the lowest set bit leaves nothing exactly for a power of two. -/
theorem and_sub_one_eq_zero_iff {n : Elem} (h : n ≠ 0) : n &&& (n - 1) = 0 ↔ ∃ k, n.toNat = 2 ^ k := by
  have hpos : n.toNat ≠ 0 := fun hzero => h (BitVec.eq_of_toNat_eq hzero)
  have hpred : (n - 1).toNat = n.toNat - 1 := by
    have hlt := n.isLt
    rw [BitVec.toNat_sub, show (1 : Elem).toNat = 1 from rfl]
    omega
  rw [← BitVec.toNat_inj, BitVec.toNat_and, hpred]
  exact Nat.and_sub_one_eq_zero_iff_isPowerOfTwo hpos

/-- `is_domain` accepts exactly the 33 sizes 2^0 to 2^32 (R148). -/
theorem isDomain_iff (n : Elem) : isDomain n = true ↔ ∃ k, k ≤ 32 ∧ n.toNat = 2 ^ k := by
  have hbound : n ≤ BitVec.ofNat 128 (2 ^ Config.logNMax) ↔ n.toNat ≤ 2 ^ 32 := BitVec.le_def
  simp only [isDomain, Bool.and_eq_true, bne_iff_ne, beq_iff_eq, decide_eq_true_eq, hbound]
  constructor
  · rintro ⟨⟨hne, hbit⟩, hle⟩
    obtain ⟨k, hk⟩ := (and_sub_one_eq_zero_iff hne).1 hbit
    rw [hk] at hle
    exact ⟨k, (Nat.pow_le_pow_iff_right (by decide)).1 hle, hk⟩
  · rintro ⟨k, hk, hn⟩
    have hne : n ≠ 0 := by
      rintro rfl
      exact absurd hn.symm (Nat.two_pow_pos k).ne'
    refine ⟨⟨hne, (and_sub_one_eq_zero_iff hne).2 ⟨k, hn⟩⟩, ?_⟩
    rw [hn]
    exact Nat.pow_le_pow_right (by decide) hk

/-! #### Powers by powers of two (R149) -/

/-- An exponent 2^j, j < 128, fits in a register. -/
theorem ofNat_two_pow_toNat {j : Nat} (h : j < 128) : (BitVec.ofNat 128 (2 ^ j)).toNat = 2 ^ j := by
  rw [BitVec.toNat_ofNat, Nat.mod_eq_of_lt (Nat.pow_lt_pow_right (by decide) h)]

/-- `root(k)` is the Montgomery form of ω^(2^(32−k)) (R149). -/
theorem rootOfUnity_mont (x k : Nat) :
    rootOfUnity Config.engine invWord montOne (mont x) k = mont (x ^ 2 ^ (32 - k)) := by
  rw [rootOfUnity, fpow_mont, Config.logNMax, ofNat_two_pow_toNat (by omega)]

/-! #### The command (R147) -/

/-- The pseudocode of ROOT: check the size, then the root of its logarithm. -/
def rootBody (ra : Reg) (s : State) : Except ErrorCode Elem := do
  if isDomain (s.f.get ra) = false then throw ErrorCode.domain
  return rootOfUnity Config.engine s.inv s.r s.wm (Nat.log2 (s.f.get ra).toNat)

theorem exec_root (rd ra : Reg) (s : State) : exec (.root rd ra) s = runCommand rd (rootBody ra) s := rfl

section command
variable {rd ra : Reg} {s : State}

theorem rootBody_of_not_domain (h : ¬∃ k, k ≤ 32 ∧ (s.f.get ra).toNat = 2 ^ k) :
    rootBody ra s = .error .domain := by
  rw [← isDomain_iff, Bool.not_eq_true] at h
  rw [rootBody, if_pos h]
  rfl

theorem rootBody_of_domain {k : Nat} (hk : k ≤ 32) (h : (s.f.get ra).toNat = 2 ^ k) :
    rootBody ra s = .ok (rootOfUnity Config.engine s.inv s.r s.wm k) := by
  have hdomain : isDomain (s.f.get ra) = true := (isDomain_iff _).2 ⟨k, hk, h⟩
  rw [rootBody, hdomain, h, Nat.log2_two_pow]
  rfl

theorem exec_root_not_ready (hready : s.ready = false) : exec (.root rd ra) s = .next (afterError s 2) := by
  rw [exec_root, runCommand_not_ready hready]

theorem exec_root_of_not_domain (hready : s.ready = true) (h : ¬∃ k, k ≤ 32 ∧ (s.f.get ra).toNat = 2 ^ k) :
    exec (.root rd ra) s = .next (afterError s 7) := by
  rw [exec_root]
  exact runCommand_error hready (rootBody_of_not_domain h)

theorem exec_root_of_domain {k : Nat} (hk : k ≤ 32) (hready : s.ready = true) (hconstants : ConstantsDerived s)
    (h : (s.f.get ra).toNat = 2 ^ k) :
    exec (.root rd ra) s = .next (afterWrite s rd (mont (s.omega.toNat ^ 2 ^ (32 - k)))) := by
  obtain ⟨hinv, hr, -, hwm, -⟩ := hconstants.afterInit hready
  rw [exec_root]
  refine runCommand_ok hready ?_
  rw [rootBody_of_domain hk h, hinv, hr, hwm, rootOfUnity_mont]

end command

/-- Settles O20: the word by its fields, the ends of ROOT by its size check (`isDomain_iff`), the value by
`rootOfUnity_mont`. -/
theorem rootCommand : Obligations.RootCommand := fun _ _ _ =>
  ⟨decode_formatU (op := 0x50) rfl, exec_root_not_ready, exec_root_of_not_domain, fun _ => exec_root_of_domain⟩

/-! #### The order of the roots (R150) -/

/-- `root(k)` in an engine whose INIT has accepted the base root x (R149). -/
def rootOf (x k : Nat) : Elem := rootOfUnity Config.engine invWord montOne (mont x) k

theorem rootOf_eq (x k : Nat) : rootOf x k = mont (x ^ 2 ^ (32 - k)) := rootOfUnity_mont x k

theorem fpow_rootOf (x k : Nat) {j : Nat} (h : j < 128) :
    fpow Config.engine invWord montOne (rootOf x k) (BitVec.ofNat 128 (2 ^ j)) = mont (x ^ 2 ^ (32 - k + j)) := by
  rw [rootOf_eq, fpow_mont, ofNat_two_pow_toNat h, ← pow_mul, ← pow_add]

/-- The squaring relation (R150 (c)). -/
theorem rootOf_pred (x : Nat) {k : Nat} (hpos : 1 ≤ k) (hk : k ≤ 32) :
    rootOf x (k - 1) = montmul Config.engine invWord (rootOf x k) (rootOf x k) := by
  have hexponent : 32 - (k - 1) = 32 - k + 1 := by omega
  rw [rootOf_eq, rootOf_eq, montmul_mont, hexponent, ← pow_two, ← pow_mul, pow_succ]

theorem rootOf_32 (x : Nat) : rootOf x 32 = mont x := by
  rw [rootOf_eq, Nat.sub_self, pow_zero, pow_one]

/-- The Montgomery forms of −1 and 1 differ, since p is not 2. -/
theorem mont_primeP_sub_one_ne_montOne : mont (primeP - 1) ≠ montOne := by decide

section baseRoot
variable {w : Elem} (hw : IsBaseRoot w)
include hw

theorem IsBaseRoot.modEq_neg_one : w.toNat ^ 2 ^ 31 ≡ primeP - 1 [MOD primeP] := by
  obtain ⟨-, hminus, -⟩ := hw
  exact hminus

theorem IsBaseRoot.modEq_one : w.toNat ^ 2 ^ 32 ≡ 1 [MOD primeP] := by
  obtain ⟨-, -, hone⟩ := hw
  exact hone

theorem IsBaseRoot.mont_pow_31 : mont (w.toNat ^ 2 ^ 31) = mont (primeP - 1) :=
  (mont_eq_mont_iff _ _).2 hw.modEq_neg_one

theorem IsBaseRoot.mont_pow_32 : mont (w.toNat ^ 2 ^ 32) = montOne :=
  (mont_eq_mont_iff _ _).2 hw.modEq_one

/-- R150 (a): n = 2^k brings `root(k)` to 1. -/
theorem IsBaseRoot.fpow_root {k : Nat} (hk : k ≤ 32) :
    fpow Config.engine invWord montOne (rootOf w.toNat k) (BitVec.ofNat 128 (2 ^ k)) = montOne := by
  rw [fpow_rootOf _ _ (by omega), Nat.sub_add_cancel hk, hw.mont_pow_32]

/-- R150 (b): n/2 brings `root(k)` to −1. -/
theorem IsBaseRoot.fpow_root_half {k : Nat} (hpos : 1 ≤ k) (hk : k ≤ 32) :
    fpow Config.engine invWord montOne (rootOf w.toNat k) (BitVec.ofNat 128 (2 ^ (k - 1))) = mont (primeP - 1) := by
  have hexponent : 32 - k + (k - 1) = 31 := by omega
  rw [fpow_rootOf _ _ (by omega), hexponent, hw.mont_pow_31]

theorem IsBaseRoot.root_zero : rootOf w.toNat 0 = montOne := by
  rw [rootOf_eq, hw.mont_pow_32]

theorem IsBaseRoot.root_one : rootOf w.toNat 1 = mont (primeP - 1) := by
  rw [rootOf_eq, hw.mont_pow_31]

/-- R150 (e): `root(2)` is a square root of −1. -/
theorem IsBaseRoot.root_two_sq :
    montmul Config.engine invWord (rootOf w.toNat 2) (rootOf w.toNat 2) = mont (primeP - 1) := by
  rw [← rootOf_pred _ (by decide) (by decide), hw.root_one]

end baseRoot

/-! #### Which square root of −1 `root(2)` is depends on OMEGA (R150 (e)) -/

/-- The cube of a value modulo p, in canonical form. -/
def cubeMod (w : Elem) : Elem := BitVec.ofNat 128 (w.toNat ^ 3 % primeP)

theorem cubeMod_toNat (w : Elem) : (cubeMod w).toNat = w.toNat ^ 3 % primeP :=
  ofNat_toNat_of_lt (Nat.mod_lt _ (by decide))

theorem cubeMod_pow_modEq (w : Elem) (n : Nat) : (cubeMod w).toNat ^ n ≡ (w.toNat ^ n) ^ 3 [MOD primeP] := by
  rw [cubeMod_toNat, pow_right_comm]
  exact (Nat.mod_modEq _ _).pow n

theorem isBaseRoot_cubeMod {w : Elem} (hw : IsBaseRoot w) : IsBaseRoot (cubeMod w) := by
  refine ⟨ofNat_reduced (Nat.mod_lt _ (by decide)), ?_, ?_⟩
  · exact (cubeMod_pow_modEq w _).trans (hw.modEq_neg_one.pow 3)
  · exact (cubeMod_pow_modEq w _).trans (hw.modEq_one.pow 3)

/-- The two roots of order 4 are i and i³ = −i: were they equal, i·i = −1 would be i·i³ = 1. -/
theorem IsBaseRoot.root_two_ne_cubeMod {w : Elem} (hw : IsBaseRoot w) :
    rootOf w.toNat 2 ≠ rootOf (cubeMod w).toNat 2 := by
  rw [rootOf_eq, rootOf_eq, Ne, mont_eq_mont_iff]
  intro hsame
  have hone : w.toNat ^ 2 ^ 31 ≡ 1 [MOD primeP] :=
    calc w.toNat ^ 2 ^ 31 = w.toNat ^ 2 ^ 30 * w.toNat ^ 2 ^ 30 := by rw [← pow_add]; rfl
      _ ≡ w.toNat ^ 2 ^ 30 * (w.toNat ^ 2 ^ 30) ^ 3 [MOD primeP] :=
        (hsame.trans (cubeMod_pow_modEq w _)).mul_left _
      _ = w.toNat ^ 2 ^ 32 := by rw [← pow_succ', ← pow_mul]; rfl
      _ ≡ 1 [MOD primeP] := hw.modEq_one
  exact absurd (hw.modEq_neg_one.symm.trans hone) (by decide)

/-- Example B of 95_test_vectors.md section 4. -/
def exampleB : Elem := 0x7C19839F48D38EB442FF6F23413DD836

theorem exampleB_isBaseRoot : IsBaseRoot exampleB := by
  refine ⟨by decide, ?_, ?_⟩ <;> rw [← squareMod_mod] <;> decide

/-- Settles O32: each root's powers are powers of ω, and a base root's powers 2^31 and 2^32 are −1 and 1; a base root and its
cube have different roots of order 4. -/
theorem rootsHaveExactOrder : Obligations.RootsHaveExactOrder := by
  refine ⟨fun w k hw hk => ?_, exampleB, cubeMod exampleB, exampleB_isBaseRoot, isBaseRoot_cubeMod exampleB_isBaseRoot,
    exampleB_isBaseRoot.root_two_ne_cubeMod⟩
  exact ⟨hw.fpow_root hk, fun hpos => ⟨hw.fpow_root_half hpos hk, mont_primeP_sub_one_ne_montOne⟩,
    fun hpos => rootOf_pred _ hpos hk, hw.root_zero, hw.root_one, rootOf_32 _, hw.root_two_sq⟩

end Sys2Proof.Machine

/-! ### Flags, phases and errors (60_exceptions.md)

First what the ENGINE's step and a port write can do, each said once (`ExecuteEnd`, `WriteEffect`), and what a step is made of
(`step_cases`, `hostTurn_preserves`). Then the flags: a consistent state has recorded nothing, an error or the failure of INIT.
The obligations follow from how each effect moves between these three. -/

namespace Sys2Proof.Machine

/-! #### What a step can do (R158, R46) -/

/-- The ends of `Execute` (R158 to R161), each with what it says about the state before. -/
inductive ExecuteEnd (s : State) : State → Prop where
  | error (e : ErrorCode) : ExecuteEnd s (afterError s (errorCodeValue e))
  | write (rd : Reg) (v : Elem) : ExecuteEnd s (afterWrite s rd v)
  | constants (hword : decode s.cmdr = .ok .init) (hready : s.ready = false) (hroot : IsBaseRoot s.omega) :
      ExecuteEnd s (commitConstants { inv := invWord, r := montOne, r2 := montTwo, wm := mont s.omega.toNat } s)
  | failure (hword : decode s.cmdr = .ok .init) (hready : s.ready = false) (hroot : ¬IsBaseRoot s.omega) :
      ExecuteEnd s (afterFatal s)

/-- Every command but INIT runs in the frame of R158. -/
theorem exec_eq_runCommand {i : Instr} (h : i ≠ .init) : ∃ rd body, ∀ s, exec i s = runCommand rd body s := by
  cases i with
  | init => contradiction
  | fromcan rd | tocan rd | mmul rd | fadd rd | fsub rd | fneg rd | fpow rd | finv rd | root rd =>
    exact ⟨rd, _, fun _ => rfl⟩

theorem exec_init (s : State) : exec .init s = execInit s := rfl

/-- The end of INIT is decided by READY and by OMEGA (R90, R93). -/
theorem execInit_end {s : State} (hword : decode s.cmdr = .ok .init) : ∃ t, execInit s = .next t ∧ ExecuteEnd s t := by
  cases hready : s.ready with
  | true => exact ⟨_, execInit_ready hready, .error .locked⟩
  | false =>
    by_cases hroot : IsBaseRoot s.omega
    · exact ⟨_, execInit_of_some hready (deriveConstants_of_baseRoot hroot), .constants hword hready hroot⟩
    · exact ⟨_, execInit_of_none hready (deriveConstants_of_not_baseRoot hroot), .failure hword hready hroot⟩

theorem exec_end {i : Instr} {s : State} (hword : decode s.cmdr = .ok i) : ∃ t, exec i s = .next t ∧ ExecuteEnd s t := by
  by_cases hinit : i = .init
  · subst hinit
    rw [exec_init]
    exact execInit_end hword
  · obtain ⟨rd, body, hframe⟩ := exec_eq_runCommand hinit
    rw [hframe]
    rcases runCommand_cases rd body s with ⟨e, heq⟩ | ⟨v, -, -, heq⟩
    · exact ⟨_, heq, .error e⟩
    · exact ⟨_, heq, .write rd v⟩

theorem execute_end {s t : State} (h : execute s = .next t) : ExecuteEnd s t := by
  cases hword : decode s.cmdr with
  | error e =>
    rw [execute_error hword] at h
    rw [← Host.Outcome.next.inj h]
    exact .error .illegal
  | ok i =>
    obtain ⟨u, heq, hend⟩ := exec_end hword
    rw [execute_ok hword, heq] at h
    rwa [← Host.Outcome.next.inj h]

/-- What `RegWrite` can do to the engine (R46 to R50), each with the flags that allow it. -/
inductive WriteEffect (s : State) : State → Prop where
  | dropped : WriteEffect s (dropWrite s)
  | latched (v : PortWord) (hbusy : s.busy = false) (herr : s.err = false) (hfatal : s.fatal = false) :
      WriteEffect s (latchCommand v s)
  | status (v : PortWord) : WriteEffect s (writeStatus v s)
  | omega (x : Elem) (hbusy : s.busy = false) (hready : s.ready = false) (hfatal : s.fatal = false) :
      WriteEffect s { s with omega := x }
  | field (i : Reg) (x : Elem) (hbusy : s.busy = false) : WriteEffect s (writeReg s i x)

theorem applyWrite_effect (v : PortWord) {s : State} {n : PortReg} (h : writeAccepted s n = true) :
    WriteEffect s (applyWrite v s n) := by
  cases n with
  | cmd =>
    simp only [writeAccepted, Bool.and_eq_true, Bool.not_eq_true'] at h
    obtain ⟨⟨hbusy, herr⟩, hfatal⟩ := h
    exact .latched v hbusy herr hfatal
  | status => exact .status v
  | omegaLo | omegaHi =>
    simp only [writeAccepted, Bool.and_eq_true, Bool.not_eq_true'] at h
    obtain ⟨⟨hbusy, hready⟩, hfatal⟩ := h
    exact .omega _ hbusy hready hfatal
  | fLo i | fHi i =>
    simp only [writeAccepted, Bool.not_eq_true'] at h
    exact .field i _ h
  | _ => exact absurd h Bool.false_ne_true

theorem regWrite_effect (a : PortAddr) (v : PortWord) (s : State) : WriteEffect s (regWrite a v s) := by
  rcases regWrite_cases a v s with ⟨haccepted, heq⟩ | ⟨-, heq⟩ <;> rw [heq]
  · exact applyWrite_effect v haccepted
  · exact .dropped

/-- What a host step other than `RESET` keeps: whatever the host's own fields do not matter to and every port write keeps. -/
theorem hostTurn_preserves {P : State → Prop}
    (hhost : ∀ u script reads issued latency,
      P u → P { u with script := script, reads := reads, issued := issued, latency := latency })
    (hport : ∀ u t, P u → WriteEffect u t → P t)
    {s : State} (hreset : ∀ rest, s.script ≠ .reset :: rest) (hs : P s) : P (hostTurn s) := by
  have hadvance (rest) : P (advanceScript rest s) := hhost s rest s.reads s.issued (s.latency - 1) hs
  have hread (a u) (h : P u) : P (hostRead a u) := hhost u u.script _ u.issued u.latency h
  have hlatency (u) (h : P u) : P (chooseLatency u) := hhost u u.script u.reads _ _ h
  cases hscript : s.script with
  | nil => rwa [hostTurn_nil hscript]
  | cons transaction rest =>
    cases transaction with
    | read a =>
      rw [hostTurn_read hscript]
      exact hread a _ (hadvance rest)
    | write a v =>
      rw [hostTurn_write hscript]
      have hwrite := hport _ _ (hadvance rest) (regWrite_effect a v _)
      rcases hostWrite_cases a v (advanceScript rest s) with heq | ⟨-, -, heq⟩ <;> rw [heq]
      · exact hwrite
      · exact hlatency _ hwrite
    | reset => exact absurd hscript (hreset rest)
    | wait =>
      cases hbusy : s.busy with
      | true =>
        rw [hostTurn_wait_busy hscript hbusy]
        exact hread _ _ (hadvance _)
      | false =>
        rw [hostTurn_wait_idle hscript hbusy]
        exact hread _ _ (hadvance _)

/-- A step is an `Execute`, a host step that is not `RESET`, or `RESET` (R54, R185). -/
theorem step_cases {s t : State} (h : step s = .next t) :
    (engineTurn s = true ∧ ExecuteEnd s t) ∨
      (engineTurn s = false ∧ (∀ rest, s.script ≠ .reset :: rest) ∧ t = hostTurn s) ∨
      (ResetIsNext s ∧ ∃ rest, t = resetEngine (advanceScript rest s)) := by
  cases hturn : engineTurn s with
  | true => exact .inl ⟨rfl, execute_end ((step_engine hturn).symm.trans h)⟩
  | false =>
    rw [step_host hturn] at h
    have ht := (Host.Outcome.next.inj h).symm
    by_cases hreset : ∃ rest, s.script = .reset :: rest
    · obtain ⟨rest, hscript⟩ := hreset
      exact .inr (.inr ⟨⟨hturn, rest, hscript⟩, rest, ht.trans (hostTurn_reset hscript)⟩)
    · exact .inr (.inl ⟨rfl, fun rest hscript => hreset ⟨rest, hscript⟩, ht⟩)

/-! #### The flags: three kinds of record (R176 (a) to (d)) -/

/-- No error and no failure; a command may be latched. -/
structure NothingRecorded (s : State) : Prop where
  err : s.err = false
  fatal : s.fatal = false
  ecode : s.ecode = 0

/-- A recoverable error is pending (R160). -/
structure ErrorRecorded (s : State) : Prop where
  busy : s.busy = false
  err : s.err = true
  fatal : s.fatal = false
  ecode : 1 ≤ s.ecode.toNat ∧ s.ecode.toNat ≤ 7

/-- INIT has failed (R161). -/
structure FailureRecorded (s : State) : Prop where
  busy : s.busy = false
  ready : s.ready = false
  err : s.err = false
  fatal : s.fatal = true
  ecode : s.ecode = 8

theorem NothingRecorded.consistent {s : State} (h : NothingRecorded s) : FlagsConsistent s := by
  obtain ⟨herr, hfatal, hecode⟩ := h
  constructor <;> simp [herr, hfatal, hecode]

theorem ErrorRecorded.consistent {s : State} (h : ErrorRecorded s) : FlagsConsistent s := by
  obtain ⟨hbusy, herr, hfatal, hecode⟩ := h
  have hzero : s.ecode ≠ 0#8 := fun hz => by simp [hz] at hecode
  have height : s.ecode ≠ 8#8 := fun h8 => by simp [h8] at hecode
  constructor <;> simp [hbusy, herr, hfatal, hecode, hzero, height]

theorem FailureRecorded.consistent {s : State} (h : FailureRecorded s) : FlagsConsistent s := by
  obtain ⟨hbusy, hready, herr, hfatal, hecode⟩ := h
  constructor <;> simp [hbusy, hready, herr, hfatal, hecode]

section consistent
variable {s : State} (h : FlagsConsistent s)
include h

theorem FlagsConsistent.nothingRecorded (herr : s.err = false) (hfatal : s.fatal = false) : NothingRecorded s :=
  ⟨herr, hfatal, h.codeZero.2 ⟨herr, hfatal⟩⟩

/-- A latched command waits in a state with nothing recorded. -/
theorem FlagsConsistent.nothingRecorded_of_busy (hbusy : s.busy = true) : NothingRecorded s := by
  obtain ⟨herr, hfatal⟩ := h.busyMeansNoError hbusy
  exact h.nothingRecorded herr hfatal

theorem FlagsConsistent.errorRecorded (herr : s.err = true) : ErrorRecorded s where
  busy := Bool.eq_false_iff.2 fun hbusy => Bool.false_ne_true ((h.busyMeansNoError hbusy).1.symm.trans herr)
  err := herr
  fatal := Bool.eq_false_iff.2 fun hfatal => h.notErrAndFatal ⟨herr, hfatal⟩
  ecode := h.codeError.2 herr

theorem FlagsConsistent.failureRecorded (hfatal : s.fatal = true) : FailureRecorded s where
  busy := Bool.eq_false_iff.2 fun hbusy => Bool.false_ne_true ((h.busyMeansNoError hbusy).2.symm.trans hfatal)
  ready := Bool.eq_false_iff.2 fun hready => h.notReadyAndFatal ⟨hready, hfatal⟩
  err := Bool.eq_false_iff.2 fun herr => h.notErrAndFatal ⟨herr, hfatal⟩
  fatal := hfatal
  ecode := h.codeEight.2 hfatal

end consistent

/-- The clauses (a) to (d) of R176 allow exactly the three records. -/
theorem flagsConsistent_iff (s : State) :
    FlagsConsistent s ↔ NothingRecorded s ∨ ErrorRecorded s ∨ FailureRecorded s := by
  constructor
  · intro h
    cases hfatal : s.fatal with
    | true => exact .inr (.inr (h.failureRecorded hfatal))
    | false =>
      cases herr : s.err with
      | true => exact .inr (.inl (h.errorRecorded herr))
      | false => exact .inl (h.nothingRecorded herr hfatal)
  · rintro (h | h | h)
    · exact h.consistent
    · exact h.consistent
    · exact h.consistent

/-- The codes of the recoverable errors (R156). -/
theorem errorCodeValue_bounds (e : ErrorCode) : 1 ≤ (errorCodeValue e).toNat ∧ (errorCodeValue e).toNat ≤ 7 := by
  cases e <;> decide

/-- `Execute` starts with nothing recorded and leaves one of the three records. -/
theorem ExecuteEnd.flagsConsistent {s t : State} (h : ExecuteEnd s t) (hs : NothingRecorded s) : FlagsConsistent t := by
  cases h with
  | error e => exact ErrorRecorded.consistent ⟨rfl, rfl, hs.fatal, errorCodeValue_bounds e⟩
  | write => exact NothingRecorded.consistent ⟨hs.err, hs.fatal, hs.ecode⟩
  | constants => exact NothingRecorded.consistent ⟨hs.err, hs.fatal, hs.ecode⟩
  | failure _ hready => exact FailureRecorded.consistent ⟨rfl, hready, hs.err, rfl, rfl⟩

theorem writeStatus_keeps_constants (v : PortWord) (s : State) : SameConstants s (writeStatus v s) := by
  constructor <;> simp

section writeEffect
variable {s t : State} (h : WriteEffect s t)
include h

theorem WriteEffect.nothingRecorded (hs : NothingRecorded s) : NothingRecorded t := by
  obtain ⟨herr, hfatal, hecode⟩ := hs
  cases h with
  | status v => constructor <;> simp [herr, hfatal, hecode]
  | _ => exact ⟨herr, hfatal, hecode⟩

/-- A pending error stays or is acknowledged (R173). -/
theorem WriteEffect.errorRecorded (hs : ErrorRecorded s) : NothingRecorded t ∨ ErrorRecorded t := by
  obtain ⟨hbusy, herr, hfatal, hecode⟩ := hs
  cases h with
  | status v =>
    cases hack : v[3] with
    | true => left; constructor <;> simp [hfatal, hack]
    | false => right; constructor <;> simp [hbusy, herr, hfatal, hecode, hack]
  | latched v _ hnone => exact absurd (hnone.symm.trans herr) Bool.false_ne_true
  | _ => exact .inr ⟨hbusy, herr, hfatal, hecode⟩

/-- The failure of INIT cannot be acknowledged (R49, R161). -/
theorem WriteEffect.failureRecorded (hs : FailureRecorded s) : FailureRecorded t := by
  obtain ⟨hbusy, hready, herr, hfatal, hecode⟩ := hs
  cases h with
  | status v => constructor <;> simp [hbusy, hready, herr, hfatal, hecode]
  | latched v _ _ hnone => exact absurd (hnone.symm.trans hfatal) Bool.false_ne_true
  | _ => exact ⟨hbusy, hready, herr, hfatal, hecode⟩

theorem WriteEffect.flagsConsistent (hs : FlagsConsistent s) : FlagsConsistent t := by
  rcases (flagsConsistent_iff s).1 hs with hnothing | herror | hfailure
  · exact (h.nothingRecorded hnothing).consistent
  · rcases h.errorRecorded herror with hnothing' | herror'
    · exact hnothing'.consistent
    · exact herror'.consistent
  · exact (h.failureRecorded hfailure).consistent

/-! #### The constants and the phase under a write (R47, R175) -/

/-- OMEGA is open in phase UNINIT only, while nothing is latched (R47). -/
theorem WriteEffect.sameConstants (hclosed : s.busy = true ∨ s.ready = true ∨ s.fatal = true) : SameConstants s t := by
  cases h with
  | omega x hbusy hready hfatal => simp [hbusy, hready, hfatal] at hclosed
  | status v => exact writeStatus_keeps_constants v s
  | _ => exact ⟨rfl, rfl, rfl, rfl, rfl, rfl⟩

theorem WriteEffect.constantsDerived (hs : ConstantsDerived s) : ConstantsDerived t := by
  cases h with
  | omega x _ hready => exact ⟨hs.beforeInit, fun h => absurd (hready.symm.trans h) Bool.false_ne_true⟩
  | status v => exact (writeStatus_keeps_constants v s).constantsDerived hs
  | _ => exact ⟨hs.beforeInit, hs.afterInit⟩

theorem WriteEffect.ready : t.ready = s.ready := by
  cases h <;> simp

theorem WriteEffect.fatal : t.fatal = s.fatal := by
  cases h <;> simp

end writeEffect

/-! #### The invariants (R176) -/

theorem ExecuteEnd.constantsDerived {s t : State} (h : ExecuteEnd s t) (hs : ConstantsDerived s) :
    ConstantsDerived t := by
  cases h with
  | error e => exact (afterError_keeps_constants s _).constantsDerived hs
  | write rd v => exact constantsDerived_afterWrite hs rd v
  | constants _ _ hroot => exact ⟨fun h => absurd h.symm Bool.false_ne_true, fun _ => ⟨rfl, rfl, rfl, rfl, hroot⟩⟩
  | failure => exact ⟨hs.beforeInit, hs.afterInit⟩

theorem ExecuteEnd.engineInvariant {s t : State} (h : ExecuteEnd s t) (hs : EngineInvariant s)
    (hbusy : s.busy = true) : EngineInvariant t :=
  ⟨h.flagsConsistent (hs.flags.nothingRecorded_of_busy hbusy), h.constantsDerived hs.constants⟩

theorem hostTurn_engineInvariant {s : State} (hreset : ∀ rest, s.script ≠ .reset :: rest) (hs : EngineInvariant s) :
    EngineInvariant (hostTurn s) := by
  refine hostTurn_preserves (fun u _ _ _ _ hu => ?host) (fun u t hu hwrite => ?port) hreset hs
  case host => exact ⟨{ hu.flags with }, { hu.constants with }⟩
  case port => exact ⟨hwrite.flagsConsistent hu.flags, hwrite.constantsDerived hu.constants⟩

/-- `RESET` leaves nothing recorded and no constant, whatever was there (R185). -/
theorem resetEngine_engineInvariant (s : State) : EngineInvariant (resetEngine s) where
  flags := NothingRecorded.consistent ⟨rfl, rfl, rfl⟩
  constants := ⟨fun _ => ⟨rfl, rfl, rfl, rfl⟩, fun h => absurd h Bool.false_ne_true⟩

/-- Settles O43, by the three kinds of step: `Execute` starts with nothing recorded because BUSY = 1, every other host step
keeps the record's kind or acknowledges an error, `RESET` clears all. -/
theorem stepKeepsTheInvariant : Obligations.StepKeepsTheInvariant := by
  intro s t hs hstep
  rcases step_cases hstep with ⟨hturn, hend⟩ | ⟨-, hreset, rfl⟩ | ⟨-, rest, rfl⟩
  · exact hend.engineInvariant hs (engineTurn_busy hturn)
  · exact hostTurn_engineInvariant hreset hs
  · exact resetEngine_engineInvariant _

/-- Settles O44: the reset state is its own reset. -/
theorem resetMeetsTheInvariant : Obligations.ResetMeetsTheInvariant := resetEngine_engineInvariant State.reset

/-! #### The phases (R175) -/

theorem phase_ready_iff (s : State) : phase s = .ready ↔ s.fatal = false ∧ s.ready = true := by
  unfold phase
  cases s.fatal <;> cases s.ready <;> simp

theorem phase_uninit_iff (s : State) : phase s = .uninit ↔ s.fatal = false ∧ s.ready = false := by
  unfold phase
  cases s.fatal <;> cases s.ready <;> simp

theorem phase_congr {s t : State} (hready : t.ready = s.ready) (hfatal : t.fatal = s.fatal) : phase t = phase s := by
  rw [phase, phase, hready, hfatal]

/-- Only INIT moves the phase, out of UNINIT, and OMEGA decides where to. -/
theorem ExecuteEnd.phase {s t : State} (h : ExecuteEnd s t) (hnone : s.fatal = false) :
    phase t = phase s ∨
      (phase s = .uninit ∧ decode s.cmdr = .ok .init ∧
        (phase t = .ready ↔ IsBaseRoot s.omega) ∧ (phase t = .fatal ↔ ¬IsBaseRoot s.omega)) := by
  cases h with
  | error e => exact .inl rfl
  | write rd v => exact .inl rfl
  | constants hword hready hroot =>
    exact .inr ⟨(phase_uninit_iff s).2 ⟨hnone, hready⟩, hword, by simp [phase_ready_iff, hnone, hroot],
      by simp [hnone, hroot]⟩
  | failure hword hready hroot =>
    exact .inr ⟨(phase_uninit_iff s).2 ⟨hnone, hready⟩, hword, by simp [phase_ready_iff, hroot], by simp [hroot]⟩

theorem hostTurn_phase {s : State} (hreset : ∀ rest, s.script ≠ .reset :: rest) : phase (hostTurn s) = phase s :=
  hostTurn_preserves (P := fun u => phase u = phase s) (fun _ _ _ _ _ hu => hu)
    (fun _ _ hu hwrite => (phase_congr hwrite.ready hwrite.fatal).trans hu) hreset rfl

/-- Settles O45: `Execute` runs with FATAL = 0, so its ends are those of `ExecuteEnd.phase`; the host moves the phase by
`RESET` alone. -/
theorem phaseTransitions : Obligations.PhaseTransitions := by
  intro s t hs hstep
  rcases step_cases hstep with ⟨hturn, hend⟩ | ⟨-, hreset, rfl⟩ | ⟨hreset, rest, rfl⟩
  · obtain ⟨-, hnone, -⟩ := hs.flags.nothingRecorded_of_busy (engineTurn_busy hturn)
    rcases hend.phase hnone with hsame | ⟨huninit, hword, hready, hfatal⟩
    · exact .inl hsame
    · exact .inr (.inl ⟨huninit, hturn, hword, hready, hfatal⟩)
  · exact .inl (hostTurn_phase hreset)
  · exact .inr (.inr ⟨rfl, hreset⟩)

/-! #### What a failure and a latched command freeze (R158, R161) -/

/-- The failure of INIT with its command, and the constants as they were (R161). -/
structure FailureKept (s t : State) : Prop where
  record : FailureRecorded t
  ecmd : t.ecmd = s.ecmd
  cmdr : t.cmdr = s.cmdr
  constants : SameConstants s t

theorem FailureKept.writeEffect {s u t : State} (hu : FailureKept s u) (h : WriteEffect u t) : FailureKept s t := by
  obtain ⟨hrecord, hecmd, hcmdr, hconstants⟩ := hu
  have hfatal := hrecord.fatal
  refine ⟨h.failureRecorded hrecord, ?_, ?_, hconstants.trans (h.sameConstants (.inr (.inr hfatal)))⟩
  · cases h <;> simp [hfatal, hecmd]
  · cases h with
    | latched v _ _ hnone => exact absurd (hnone.symm.trans hfatal) Bool.false_ne_true
    | _ => simp [hcmdr]

theorem hostTurn_failureKept {s : State} (hreset : ∀ rest, s.script ≠ .reset :: rest) (hs : FailureRecorded s) :
    FailureKept s (hostTurn s) :=
  hostTurn_preserves
    (fun _ _ _ _ _ ⟨hrecord, hecmd, hcmdr, hconstants⟩ => ⟨{ hrecord with }, hecmd, hcmdr, { hconstants with }⟩)
    (fun _ _ hu hwrite => hu.writeEffect hwrite) hreset ⟨hs, rfl, rfl, .refl s⟩

/-- Settles O47: in phase FATAL nothing is latched, so the step is the host's; no write touches the record, and the constants
are 0 because READY is (R176 (e)). -/
theorem fatalIsLeftOnlyByReset : Obligations.FatalIsLeftOnlyByReset := by
  intro s t hs hfatal hnotReset hstep
  have hrecord := hs.flags.failureRecorded hfatal
  obtain ⟨hinv0, hr0, hr20, hwm0⟩ := hs.constants.beforeInit hrecord.ready
  rcases step_cases hstep with ⟨hturn, -⟩ | ⟨-, hreset, rfl⟩ | ⟨hreset, -⟩
  · exact absurd (hrecord.busy.symm.trans (engineTurn_busy hturn)) Bool.false_ne_true
  · obtain ⟨⟨hbusy, hready, herr, hfatal', hecode⟩, hecmd, hcmdr, ⟨-, hinv, hr, hr2, hwm, homega⟩⟩ :=
      hostTurn_failureKept hreset hrecord
    exact ⟨hfatal', hbusy, hready, herr, hecode, hecmd, hcmdr, homega, hinv.trans hinv0, hr.trans hr0, hr2.trans hr20,
      hwm.trans hwm0⟩
  · exact absurd hreset hnotReset

/-- A command is latched and it and all that it reads are as they were (R158). -/
structure OperandsKept (s t : State) : Prop where
  busy : t.busy = true
  cmdr : t.cmdr = s.cmdr
  f : t.f = s.f
  fatal : t.fatal = s.fatal
  constants : SameConstants s t

theorem OperandsKept.writeEffect {s u t : State} (hu : OperandsKept s u) (h : WriteEffect u t) : OperandsKept s t := by
  obtain ⟨hbusy, hcmdr, hf, hfatal, hconstants⟩ := hu
  have hconstants' := hconstants.trans (h.sameConstants (.inl hbusy))
  cases h with
  | dropped => exact ⟨hbusy, hcmdr, hf, hfatal, hconstants'⟩
  | status v => exact ⟨by simp [hbusy], by simp [hcmdr], by simp [hf], by simp [hfatal], hconstants'⟩
  | latched _ hidle | omega _ hidle | field _ _ hidle => exact absurd (hidle.symm.trans hbusy) Bool.false_ne_true

theorem hostTurn_operandsKept {s : State} (hreset : ∀ rest, s.script ≠ .reset :: rest) (hbusy : s.busy = true) :
    OperandsKept s (hostTurn s) :=
  hostTurn_preserves
    (fun _ _ _ _ _ ⟨hbusy, hcmdr, hf, hfatal, hconstants⟩ => ⟨hbusy, hcmdr, hf, hfatal, { hconstants with }⟩)
    (fun _ _ hu hwrite => hu.writeEffect hwrite) hreset ⟨hbusy, rfl, rfl, rfl, .refl s⟩

/-- Settles O48: the step is the host's, and with BUSY = 1 the port drops every write but STATUS's (R50). -/
theorem busyFreezesTheOperands : Obligations.BusyFreezesTheOperands := by
  intro s t hbusy hturn hnotReset hstep
  rcases step_cases hstep with ⟨hengine, -⟩ | ⟨-, hreset, rfl⟩ | ⟨hreset, -⟩
  · exact absurd (hturn.symm.trans hengine) Bool.false_ne_true
  · obtain ⟨hbusy', hcmdr, hf, hfatal, ⟨hready, hinv, hr, hr2, hwm, homega⟩⟩ := hostTurn_operandsKept hreset hbusy
    exact ⟨hbusy', hcmdr, hf, homega, hinv, hr, hr2, hwm, hready, hfatal⟩
  · exact absurd hreset hnotReset

/-! #### `Execute` and its errors (R158 to R163, R173) -/

theorem engineTurn_of_busy {s : State} (hbusy : s.busy = true) (h : s.latency = 0 ∨ s.script = []) :
    engineTurn s = true := by
  simpa [engineTurn, hbusy] using h

/-- Settles O5: the ENGINE's step is `Execute`, which runs what the word decodes to. -/
theorem stepRunsLatchedCommand : Obligations.StepRunsLatchedCommand := by
  intro s i hbusy hwait hword
  rw [step_engine (engineTurn_of_busy hbusy hwait), execute_ok hword]

/-- Settles O7: as for a legal word, and `Execute` tests legality before READY. -/
theorem illegalWordTakesError : Obligations.IllegalWordTakesError := by
  intro s e hbusy hwait hword
  rw [step_engine (engineTurn_of_busy hbusy hwait), execute_error hword]

/-- Settles O8: each of the four ends clears BUSY and keeps the other fields named. -/
theorem everyCommandCommits : Obligations.EveryCommandCommits := by
  intro i s
  rcases exec_cases i s with ⟨e, heq⟩ | ⟨rd, v, -, heq⟩ | ⟨k, -, -, -, heq⟩ | ⟨-, -, heq⟩
  all_goals exact ⟨_, heq, rfl, rfl, rfl, rfl, rfl, rfl, rfl, rfl⟩

/-- A pending error closes CMD (R50 (a)). -/
theorem regWrite_cmd_of_err {s : State} (v : PortWord) (h : s.err = true) : regWrite 0x00 v s = { s with pviol := true } :=
  regWrite_of_not_accepted ((writeAccepted_eq_false_iff _ _).2 (.inl ⟨rfl, .inr (.inl h)⟩))

/-- Settles O9: of the four ends only the error's sets ERR. -/
theorem errorsArePrecise : Obligations.ErrorsArePrecise := by
  intro i s t hclear hexec herr
  refine ⟨?_, fun v => regWrite_cmd_of_err v herr⟩
  have habsurd (h : t.err = s.err) : False := Bool.false_ne_true (hclear.symm.trans (h.symm.trans herr))
  rcases exec_cases i s with ⟨e, heq⟩ | ⟨rd, v, -, heq⟩ | ⟨k, -, -, -, heq⟩ | ⟨-, -, heq⟩ <;>
    obtain rfl := Host.Outcome.next.inj (heq.symm.trans hexec)
  · obtain ⟨hlow, hhigh⟩ := errorCodeValue_bounds e
    exact ⟨_, hlow, hhigh, rfl⟩
  all_goals exact (habsurd rfl).elim

/-- Settles O10: every command but INIT runs in the frame that tests READY first. -/
theorem commandsBeforeInit : Obligations.CommandsBeforeInit := by
  intro i s hinit hready
  obtain ⟨rd, body, hframe⟩ := exec_eq_runCommand hinit
  rw [hframe, runCommand_not_ready hready]

/-- The host's CLRERR (R70) is an acknowledge and nothing else. -/
theorem regWrite_clrerr (s : State) : regWrite 0x01 0x8 s = acknowledge s := rfl

theorem acknowledge_of_not_fatal {s : State} (h : s.fatal = false) :
    acknowledge s = { s with err := false, ecode := 0, ecmd := 0 } := by
  simp [acknowledge, h]

/-- Settles O39: the acknowledge clears ERR, so CMD is open again (R48). -/
theorem acknowledgeReopensTheEngine : Obligations.AcknowledgeReopensTheEngine := by
  intro s v _ hfatal hbusy
  rw [regWrite_clrerr, acknowledge_of_not_fatal hfatal]
  exact ⟨rfl, regWrite_cmd v hbusy rfl hfatal⟩

end Sys2Proof.Machine

/-! ### Reset, hazards and the end of a run (70_reset_and_hazards.md)

A command writes one value, and its pseudocode yields it after the operand checks; so R196 is followed through the checks
(`YieldsReduced`) down to the datapath, whose values are reduced for reduced operands. A `WAIT` is counted poll by poll. -/

namespace Sys2Proof.Machine

/-! #### What pseudocode yields (R159, R164, R165) -/

/-- The pseudocode ends in an error or with a reduced value. -/
def YieldsReduced (result : Except ErrorCode Elem) : Prop := ∀ v, result = .ok v → Reduced v

theorem YieldsReduced.error (e : ErrorCode) : YieldsReduced (.error e) := nofun

theorem YieldsReduced.ok {v : Elem} (h : Reduced v) : YieldsReduced (.ok v) := fun _ heq => Except.ok.inj heq ▸ h

section operandChecks
variable {s : State} {i : Reg} {rest : Elem → Except ErrorCode Elem}
  (h : Reduced (s.f.get i) → YieldsReduced (rest (s.f.get i)))
include h

/-- What follows the check of a Montgomery source may take the source to be reduced (R164). -/
theorem YieldsReduced.readMont_bind : YieldsReduced (readMont s i >>= rest) := by
  by_cases hreduced : Reduced (s.f.get i)
  · rw [readMont_of_reduced hreduced]
    exact h hreduced
  · rw [readMont_of_not_reduced hreduced]
    exact .error .contract

/-- What follows the check of a canonical source may take the source to be reduced (R165). -/
theorem YieldsReduced.readCanon_bind : YieldsReduced (readCanon s i >>= rest) := by
  by_cases hreduced : Reduced (s.f.get i)
  · rw [readCanon_of_reduced hreduced]
    exact h hreduced
  · rw [readCanon_of_not_reduced hreduced]
    exact .error .range

end operandChecks

/-! #### What a command writes (R196) -/

/-- The answer is a next state whose field registers are each unchanged or reduced. -/
def WritesReduced (s : State) (result : Result) : Prop :=
  ∃ t, result = .next t ∧ ∀ j : Reg, t.f.get j = s.f.get j ∨ Reduced (t.f.get j)

theorem WritesReduced.of_same_f {s t : State} {result : Result} (heq : result = .next t) (hf : t.f = s.f) :
    WritesReduced s result :=
  ⟨t, heq, fun _ => .inl (by rw [hf])⟩

theorem WritesReduced.of_afterWrite {s : State} {result : Result} {rd : Reg} {v : Elem}
    (heq : result = .next (afterWrite s rd v)) (hv : Reduced v) : WritesReduced s result := by
  refine ⟨_, heq, fun j => ?_⟩
  rw [afterWrite_f]
  by_cases hj : rd = j
  · subst hj
    rw [get_set_same]
    exact .inr hv
  · exact .inl (get_set_other _ _ _ _ hj)

theorem runCommand_writesReduced {rd : Reg} {body : State → Except ErrorCode Elem} {s : State}
    (h : s.ready = true → YieldsReduced (body s)) : WritesReduced s (runCommand rd body s) := by
  rcases runCommand_cases rd body s with ⟨e, heq⟩ | ⟨v, hready, hbody, heq⟩
  · exact .of_same_f heq rfl
  · exact .of_afterWrite heq (h hready v hbody)

/-- INIT writes no field register (R94, R95). -/
theorem execInit_writesReduced (s : State) : WritesReduced s (execInit s) := by
  rcases execInit_cases s with ⟨-, heq⟩ | ⟨-, k, -, heq⟩ | ⟨-, -, heq⟩
  all_goals exact .of_same_f heq rfl

theorem fneg_reduced {a : Elem} (ha : Reduced a) : Reduced (fneg Config.engine a) := fsub_reduced (by decide) ha

theorem redc_widen_reduced {e : Elem} (h : Reduced e) : Reduced (redc Config.engine invWord (widen e)) := by
  rw [redc_widen h]
  exact ofNat_can_reduced e

theorem montOne_reduced : Reduced montOne := mont_reduced 1

section pseudocode
variable {s : State} (hready : s.ready = true) (hconstants : ConstantsDerived s)

theorem montBinary_yieldsReduced {op : Elem → Elem → Elem} (hop : ∀ {a b}, Reduced a → Reduced b → Reduced (op a b))
    (ra rb : Reg) : YieldsReduced (montBinary op ra rb s) :=
  .readMont_bind fun ha => .readMont_bind fun hb => .ok (hop ha hb)

include hready hconstants

theorem fpow_reduced {b : Elem} (h : Reduced b) (e : Elem) : Reduced (fpow Config.engine s.inv s.r b e) := by
  rw [fpow_of_constants hready hconstants h]
  exact mont_reduced _

theorem finvRest_yieldsReduced {a : Elem} (h : Reduced a) : YieldsReduced (finvRest s a) := by
  by_cases hzero : a = 0
  · rw [hzero, finvRest_zero]
    exact .error .divZero
  · rw [finvRest_of_ne_zero s hzero]
    exact .ok (fpow_reduced hready hconstants h _)

theorem rootBody_yieldsReduced (ra : Reg) : YieldsReduced (rootBody ra s) := by
  obtain ⟨hinv, hr, -, hwm, -⟩ := hconstants.afterInit hready
  by_cases hdomain : ∃ k, k ≤ 32 ∧ (s.f.get ra).toNat = 2 ^ k
  · obtain ⟨k, hk, hsize⟩ := hdomain
    rw [rootBody_of_domain hk hsize, hinv, hr, hwm, rootOfUnity_mont]
    exact .ok (mont_reduced _)
  · rw [rootBody_of_not_domain hdomain]
    exact .error .domain

end pseudocode

theorem exec_writesReduced {s : State} (hconstants : ConstantsDerived s) (i : Instr) : WritesReduced s (exec i s) := by
  have hinv (hready : s.ready = true) : s.inv = invWord := by
    obtain ⟨hinv, -, -, -, -⟩ := hconstants.afterInit hready
    exact hinv
  cases i with
  | init => exact execInit_writesReduced s
  | fromcan rd ra =>
    rw [exec_fromcan]
    refine runCommand_writesReduced fun hready => .readCanon_bind fun hx => .ok ?_
    rw [hinv hready]
    exact montmul_reduced hx _
  | tocan rd ra =>
    rw [exec_tocan]
    refine runCommand_writesReduced fun hready => .readMont_bind fun he => .ok ?_
    rw [hinv hready]
    exact redc_widen_reduced he
  | mmul rd ra rb =>
    rw [exec_mmul]
    refine runCommand_writesReduced fun hready => .readMont_bind fun ha => .readMont_bind fun _ => .ok ?_
    rw [hinv hready]
    exact montmul_reduced ha _
  | fadd rd ra rb => exact runCommand_writesReduced fun _ => montBinary_yieldsReduced fadd_reduced ra rb
  | fsub rd ra rb => exact runCommand_writesReduced fun _ => montBinary_yieldsReduced fsub_reduced ra rb
  | fneg rd ra =>
    rw [exec_fneg]
    exact runCommand_writesReduced fun _ => .readMont_bind fun ha => .ok (fneg_reduced ha)
  | fpow rd ra rb =>
    rw [exec_fpow]
    exact runCommand_writesReduced fun hready => .readMont_bind fun hb => .ok (fpow_reduced hready hconstants hb _)
  | finv rd ra =>
    rw [exec_finv]
    exact runCommand_writesReduced fun hready => .readMont_bind fun ha => finvRest_yieldsReduced hready hconstants ha
  | root rd ra => exact runCommand_writesReduced fun hready => rootBody_yieldsReduced hready hconstants ra

/-- Settles O21: INIT's constants are reduced by their formulas, and each command's pseudocode yields a reduced value once its
operand checks have passed. -/
theorem commandsWriteReducedValues : Obligations.CommandsWriteReducedValues := by
  intro s hconstants
  refine ⟨fun hready => ?_, exec_writesReduced hconstants⟩
  obtain ⟨-, hr, hr2, hwm, -⟩ := hconstants.afterInit hready
  rw [hr, hr2, hwm]
  exact ⟨mont_reduced _, montOne_reduced, montTwo_reduced⟩

/-! #### A `WAIT` (R70, R193) -/

theorem engineTurn_of_idle {s : State} (hidle : s.busy = false) : engineTurn s = false := by
  simp [engineTurn, hidle]

/-- The host goes first while the latency has not run out and it has something left to do (log 2). -/
theorem engineTurn_of_latency {s : State} (hlatency : s.latency ≠ 0) (hscript : s.script ≠ []) :
    engineTurn s = false := by
  simp [engineTurn, hlatency, hscript]

theorem ExecuteEnd.busy {s t : State} (h : ExecuteEnd s t) : t.busy = false := by
  cases h <;> rfl

theorem ExecuteEnd.script {s t : State} (h : ExecuteEnd s t) : t.script = s.script := by
  cases h <;> rfl

/-- Within `bound` steps the run is in a state with BUSY = 0 whose script is `rest`. -/
def IdleWithin (rest : List Transaction) (bound : Nat) (s : State) : Prop :=
  ∃ k t, k ≤ bound ∧ Host.Core.run core k s = .next t ∧ t.busy = false ∧ t.script = rest

theorem run_succ_of_step {s u : State} (k : Nat) (h : step s = .next u) :
    Host.Core.run core (k + 1) s = Host.Core.run core k u := by
  have hcore : core.step s = .next u := h
  simp only [Host.Core.run, hcore]

section idleWithin
variable {rest : List Transaction} {s : State}

theorem IdleWithin.here (bound : Nat) (hidle : s.busy = false) (hscript : s.script = rest) : IdleWithin rest bound s :=
  ⟨0, s, Nat.zero_le bound, rfl, hidle, hscript⟩

theorem IdleWithin.of_step {u : State} {bound : Nat} (hstep : step s = .next u) (h : IdleWithin rest bound u) :
    IdleWithin rest (bound + 1) s := by
  obtain ⟨k, t, hk, hrun, hidle, hscript⟩ := h
  exact ⟨k + 1, t, Nat.succ_le_succ hk, (run_succ_of_step k hstep).trans hrun, hidle, hscript⟩

/-- A `WAIT` that finds BUSY = 0 is one poll. -/
theorem idleWithin_of_idle (bound : Nat) (hscript : s.script = .wait :: rest) (hidle : s.busy = false) :
    IdleWithin rest (bound + 1) s := by
  refine .of_step (step_host (engineTurn_of_idle hidle)) ?_
  rw [hostTurn_wait_idle hscript hidle]
  exact .here bound hidle rfl

end idleWithin

/-- A `WAIT` that finds BUSY = 1 polls until the latency has run out; then come the `Execute` and the last poll. -/
theorem idleWithin_of_busy {rest : List Transaction} (n : Nat) {s : State} (hscript : s.script = .wait :: rest)
    (hbusy : s.busy = true) (hlatency : s.latency = n) : IdleWithin rest (n + 2) s := by
  induction n generalizing s with
  | zero =>
    have hturn := engineTurn_of_busy hbusy (.inl hlatency)
    obtain ⟨t, hexecute⟩ := execute_next s
    have hend := execute_end hexecute
    exact .of_step ((step_engine hturn).trans hexecute) (idleWithin_of_idle 0 (hend.script.trans hscript) hend.busy)
  | succ n ih =>
    have hturn : engineTurn s = false := engineTurn_of_latency (by simp [hlatency]) (by simp [hscript])
    refine .of_step (step_host hturn) ?_
    rw [hostTurn_wait_busy hscript hbusy]
    exact ih rfl hbusy (by simp [hlatency])

/-- Settles O49: an idle engine ends the `WAIT` in one poll; a busy one by induction on its latency. -/
theorem waitEnds : Obligations.WaitEnds := by
  intro s rest hscript
  cases hbusy : s.busy with
  | false => exact idleWithin_of_idle (s.latency + 1) hscript hbusy
  | true => exact idleWithin_of_busy s.latency hscript hbusy rfl

/-! #### The end of a run (R199) and `RESET` (R185) -/

theorem not_finished_of_busy {s : State} (hbusy : s.busy = true) : ¬Finished s :=
  fun ⟨_, hidle⟩ => Bool.false_ne_true (hidle.symm.trans hbusy)

theorem not_goodEnd_of_recorded {s : State} (h : s.err = true ∨ s.fatal = true) (meant : Bool) : ¬GoodEnd meant s := by
  rintro ⟨-, herr, hfatal, -⟩
  simp [herr, hfatal] at h

/-- Settles O52: with BUSY = 1 and no transaction left the turn is the ENGINE's; a good end has no error recorded and READY = 1,
so the invariants give its code and its constants. -/
theorem endOfARun : Obligations.EndOfARun := by
  intro s
  refine ⟨fun hbusy => ⟨not_finished_of_busy hbusy, fun hscript => ?_⟩, fun hs hgood => ?_, not_goodEnd_of_recorded⟩
  · exact step_engine (engineTurn_of_busy hbusy (.inr hscript))
  · obtain ⟨-, herr, hfatal, hmeant⟩ := hgood
    have hready := hmeant rfl
    exact ⟨(phase_ready_iff s).2 ⟨hfatal, hready⟩, hs.flags.codeZero.2 ⟨herr, hfatal⟩, hs.constants.afterInit hready⟩

/-- Settles O42: the step is the HOST's, whose `RESET` keeps the host's own fields only. -/
theorem resetStep : Obligations.ResetStep := by
  intro s rest hturn hscript
  rw [step_host hturn, hostTurn_reset hscript]
  rfl

end Sys2Proof.Machine
